-- ==== Sys2Proof/Word.lean ====
section
/-! DEFINITION. Word types of the block (00_scope.md rule R7: registers and cells are unsigned 16-bit). -/

namespace Sys2Proof

/-- A register, a video-memory cell, a CMOS or palette word: 16 bits, unsigned (rule R7). -/
abbrev Word := BitVec 16

/-- A byte of the graphics ROM, of the CMOS blob or of the serial buffer. -/
abbrev Byte := BitVec 8

/-- A source bit address: unsigned 32 bits, wrapping (rules R16, R124). -/
abbrev BitAddr := BitVec 32

end Sys2Proof
end

