-- ==== Sys2Proof/Config.lean ====
section
/-! DEFINITION. What an attach binds (00_scope.md rule R6), and the one free value of the block. -/

namespace Sys2Proof

/-- The board family (rule R2). -/
inductive Family where
  | T | Y | Z | Wolf
deriving DecidableEq, Repr

/-- The protection chip fitted on the board, with that chip's own parameters (rules R6, R23 to R27).
A board holds at most one. -/
inductive Chip where
  /-- Chip 1: `MK1_TABLE`, `MK1_WR_SHIFT`. -/
  | mk1 (table : List (BitVec 6)) (wrShift : Nat)
  /-- Chip 2: no parameter. -/
  | mk2
  /-- Chip 3: `NBAJAM_TABLE`, `NBAJAM_IDX_SHIFT`, `NBAJAM_Q0_MASK`. -/
  | nbaJam (table : Vector (BitVec 32) 128) (idxShift : Nat) (q0Mask : Word)
  /-- Chip 4: `Y_RESET_SEQ`, `Y_DATA_SEQ`, `Y_STRIKEFORCE`, `SF_CODE_WORD`, and `SF_TRANSFORM` as the
  default `w << 4` with finitely many exceptions (log 6). -/
  | yUnit (resetSeq : Vector Word 3) (dataSeq : List Word) (strikeForce : Bool) (sfCodeWord : Word)
      (sfTransform : List (Word × Word))
  /-- Chip 5: `SERIAL_DATA`, `SERIAL_ORMASK`. -/
  | serial (data : Vector Byte 16) (orMask : Byte)
deriving DecidableEq, Repr

/-- The implementation parameters of rule R6. A parameter that is a function is its default together
with a finite list of exceptions (argument, value), so that the record is plain data (log 6).
`CMOS_PAGES`, `VRAM_STRIDE` and `NREG` are fixed by the source and are no fields. -/
structure Params where
  family : Family
  /-- `VRAM_CELLS`. -/
  vramCells : Nat
  /-- `XPOSMASK`. -/
  xposMask : Word
  /-- `YPOSMASK`. -/
  yposMask : Word
  /-- `VISIBLE_FIRST`; a scanline number (log 13). -/
  visibleFirst : Nat
  /-- `VISIBLE_LAST`. -/
  visibleLast : Nat
  /-- `ROM`, `ROM_BYTES` bytes. -/
  rom : List Byte
  /-- `ROM_WINDOW_BITS`. -/
  romWindowBits : Nat
  /-- `ROM_FOLD`: exceptions to the identity. -/
  romFold : List (BitAddr × BitAddr)
  /-- `REG_MAP`: port offset modulo 16 to register number. -/
  regMap : Vector (Fin 16) 16
  /-- `FAST_DMA`. -/
  fastDma : Bool
  /-- `DMA_NS_PER_PIXEL`: timing only (rule R129). -/
  dmaNsPerPixel : Nat
  /-- `CMOS_PAGE_WORDS`. -/
  cmosPageWords : Nat
  /-- The fitted protection chip, if any. -/
  chip : Option Chip
  /-- `FWD_LOOKUP`: exceptions to the identity. -/
  fwdLookup : List (Word × Word)
  /-- `REV_LOOKUP`: exceptions to the identity. -/
  revLookup : List (Word × Word)
  /-- `AUTOERASE_ROW`. -/
  autoeraseRow : Nat
  /-- `LINE_ROW`: exceptions to `s & YPOSMASK`. -/
  lineRow : List (Nat × Nat)
  /-- `PAL_ENTRIES`. -/
  palEntries : Nat
  /-- `PAL_MASK`: any 16 bits, also with bits in the low byte (log 22, DESIGN CHOICE). -/
  palMask : Word
deriving DecidableEq, Repr

/-- `VRAM_CELLS` by family (rule R6). -/
def defaultVramCells : Family → Nat
  | .T | .Wolf => 0x80000
  | .Y | .Z => 0x40000

/-- Rule R6's defaults for a family and a ROM image. The parameters rule R6 leaves OPEN take the
values of log 5 (DESIGN CHOICE): a run binds its own by `RESET`. The defaults of a chip's own parameters
stand in `defaultMk1`, `defaultNbaJam`, `defaultYUnit` and `defaultSerial`. -/
def defaultParams (f : Family) (rom : List Byte) : Params where
  family := f
  vramCells := defaultVramCells f
  xposMask := 0x3FF#16
  yposMask := 0x1FF#16
  visibleFirst := 0
  visibleLast := 255
  rom := rom
  romWindowBits := 8 * rom.length
  romFold := []
  regMap := #v[0, 1, 2, 3, 4, 5, 6, 7, 8, 9, 10, 11, 12, 13, 14, 15]
  fastDma := true
  dmaNsPerPixel := 41
  cmosPageWords := 0x1000
  chip := none
  fwdLookup := []
  revLookup := []
  autoeraseRow := 510
  lineRow := []
  palEntries := 0x8000
  palMask := 0xFF00#16

/-- Chip 1 with the default of rule R6 (decision D21): `MK1_WR_SHIFT` 9. -/
def defaultMk1 (table : List (BitVec 6)) : Chip := .mk1 table 9

/-- Chip 3 with the defaults of rule R6 (decision D24): `NBAJAM_IDX_SHIFT` 6, `NBAJAM_Q0_MASK` 0x00FF. -/
def defaultNbaJam (table : Vector (BitVec 32) 128) : Chip := .nbaJam table 6 0x00FF#16

/-- Chip 4 with the defaults of rule R6: `Y_STRIKEFORCE` false, `SF_TRANSFORM` `w << 4` (decision D27). -/
def defaultYUnit (resetSeq : Vector Word 3) (dataSeq : List Word) (sfCodeWord : Word) : Chip :=
  .yUnit resetSeq dataSeq false sfCodeWord []

/-- Chip 5 with the default of rule R6 (decision D28): `SERIAL_ORMASK` 0x80. -/
def defaultSerial (data : Vector Byte 16) : Chip := .serial data 0x80#8

/-- `ROM_PAD(i)`: the byte the blitter reads at index `i` past the end of the ROM image. A free value:
"a function from byte index to byte, fixed for the run, unconstrained" (93_implementation_defined.md
U3, rule R53; log 8). It has no body, so nothing can be proved of it. -/
opaque Config.romPad : Nat → Byte

end Sys2Proof
end

