-- ==== Sys2Proof/Syntax.lean ====
section
/-! DEFINITION. The operations of the block (30_encoding.md rule R81), one constructor for each row of
spec/opcode_table.json, and the raw calls that carry them (rule R80). -/

namespace Sys2Proof

/-- The byte-enable mask of a host access, one flag for each byte lane (20_memory.md rules R51, R52):
`lo` enables bits 7:0, `hi` bits 15:8. -/
structure ByteMask where
  lo : Bool
  hi : Bool
deriving DecidableEq, Repr

/-- The operand fields of a go command word, bits 14:5 (rule R83). -/
structure BltFields where
  /-- `BPP`, bits 14:12; 0 means 8. -/
  bpp : BitVec 3
  /-- `POSTSKIP_SH`, bits 11:10. -/
  postSh : BitVec 2
  /-- `PRESKIP_SH`, bits 9:8. -/
  preSh : BitVec 2
  /-- `SKIP_EN`, bit 7. -/
  skipEn : Bool
  /-- `CLIP_DROP`, bit 6. -/
  clipDrop : Bool
  /-- `YFLIP`, bit 5. -/
  yflip : Bool
deriving DecidableEq, Repr

/-- The shift-register buffer of the CPU-core collaborator: 1024 words (43_video_memory.md rule R224). -/
abbrev ShiftBuffer := Vector Word 1024

/-- A CMOS save blob, or `none` where there is no save file (44_cmos.md rule R235). -/
abbrev Blob := Option (List Byte)

/-- The operations, in the opcode table's order. -/
inductive Instr where
  | dmaWr (off : Nat) (data : Word) (mask : ByteMask)
  | dmaRd (off : Nat)
  | dmaStop (r : BitVec 15)
  | blt00 (f : BltFields)
  | blt01 (f : BltFields)
  | blt02 (f : BltFields)
  | blt03 (f : BltFields)
  | blt04 (f : BltFields)
  | blt05 (f : BltFields)
  | blt06 (f : BltFields)
  | blt07 (f : BltFields)
  | blt08 (f : BltFields)
  | blt09 (f : BltFields)
  | blt0A (f : BltFields)
  | blt0B (f : BltFields)
  | blt0C (f : BltFields)
  | blt0D (f : BltFields)
  | blt0E (f : BltFields)
  | blt0F (f : BltFields)
  | blt10 (f : BltFields)
  | blt11 (f : BltFields)
  | blt12 (f : BltFields)
  | blt13 (f : BltFields)
  | blt14 (f : BltFields)
  | blt15 (f : BltFields)
  | blt16 (f : BltFields)
  | blt17 (f : BltFields)
  | blt18 (f : BltFields)
  | blt19 (f : BltFields)
  | blt1A (f : BltFields)
  | blt1B (f : BltFields)
  | blt1C (f : BltFields)
  | blt1D (f : BltFields)
  | blt1E (f : BltFields)
  | blt1F (f : BltFields)
  | dmaDone
  | ctrlWr (data : Word) (mask : ByteMask)
  | vramWr (off : Nat) (data : Word) (mask : ByteMask)
  | vramRd (off : Nat)
  | palWr (off : Nat) (data : Word)
  | vidLine (scanline : Int) (pageflip : Bool)
  | vidEof (pageflip : Bool)
  | srToHost (addr : Nat)
  | srFromHost (addr : Nat) (buffer : ShiftBuffer)
  | cmosRd (off : Nat)
  | cmosWr (off : Nat) (data : Word) (mask : ByteMask)
  | cmosEn (data : Word)
  | cmosLoad (blob : Blob)
  | cmosSave
  | prot1Rd
  | prot1Wr (data : Word) (mask : ByteMask)
  | prot2Rd
  | prot2RdSh
  | prot2RdC
  | prot2Wr (data : Word) (mask : ByteMask)
  | prot3Rd
  | prot3Wr (off : Nat) (data : Word)
  | prot4Wr (data : Word)
  | prot4Rd
  | prot5Wr (data : Word)
  | prot5Rd
  | prot5Status
  | reset (p : Params) (blob : Blob)
deriving DecidableEq, Repr

/-- The sub-address of a protection access, by the name the opcode table gives it: the source excludes
the addresses themselves (45_protection.md, head; log 3). -/
inductive ProtSub where
  | plain | latch | shifted | constant | enable | status
deriving DecidableEq, Repr

/-- The inbound ports of rule R80 (`registerWrite/Read`, the control write, `vramWrite/Read`, ...). -/
inductive Port where
  | register
  | control
  | vram
  | palette
  | cmos
  | cmosEnable
  | protection (sub : ProtSub)
deriving DecidableEq, Repr

/-- The direction of a PORT access. -/
inductive Dir where
  | R | W
deriving DecidableEq, Repr

/-- Format EVENT of rule R80: a call by a collaborator or by the block's own timer. -/
inductive Event where
  | completion
  | displayInterrupt (scanline : Int) (pageflip : Bool)
  | endOfFrame (pageflip : Bool)
  | shiftRegisterToHost (addr : Nat)
  | shiftRegisterFromHost (addr : Nat) (buffer : ShiftBuffer)
  | saveStateLoad (blob : Blob)
  | saveStateSave
  | attach (p : Params) (blob : Blob)
  /-- The end of the board context (rule R302): `CMOS.SAVE`, then the context is destroyed (log 17). -/
  | detach
deriving DecidableEq, Repr

/-- One inbound call, as rule R80 gives its encoding: the tuple (port, dir, offset, data, mask) with
the mask as a 16-bit bit mask, or an event. -/
inductive Call where
  | port (port : Port) (dir : Dir) (offset : Nat) (data : Word) (mask : Word)
  | event (e : Event)
deriving DecidableEq, Repr

/-- What the decoder looks at besides the call: whether a board context exists at all (rules R300, R302),
the register map, the present command word (a masked write is merged before it is decoded, rule R83) and
the fitted chip (its ports exist, rule R81). -/
structure Context where
  live : Bool
  regMap : Vector (Fin 16) 16
  command : Word
  chip : Option Chip
deriving DecidableEq, Repr

/-- Why a call is no operation of rule R81. -/
inductive DecodeReject where
  /-- The port has no operation in that direction. -/
  | noSuchAccess
  /-- The mask is none of the four of rule R51. -/
  | badMask
  /-- No such access on the fitted chip, or no chip (93_implementation_defined.md U19). -/
  | noSuchProtection
  /-- `RESET` with parameters the spec rules out. -/
  | badParameters
  /-- No board context: it was destroyed, and nothing but an attach constructs one (rules R300, R302;
  log 17). -/
  | noContext
deriving DecidableEq, Repr

end Sys2Proof
end

