-- ==== Sys2Proof/WellFormed.lean ====
section
/-! DEFINITION. The checks a call's operands meet: what rule R6 and the rules it points to demand of the
parameters, and which operation a call can stand for in a context. -/

namespace Sys2Proof

/-- A parameter function, given as a default and its exceptions: the first listed value, else the
default (log 6). -/
def withExceptions {α β : Type} [DecidableEq α] (ex : List (α × β)) (dflt : β) (a : α) : β :=
  match ex with
  | [] => dflt
  | (k, v) :: rest => if k = a then v else withExceptions rest dflt a

/-- `FWD_LOOKUP[v]` (rule R205). -/
def forwardLookup (p : Params) (v : Word) : Word := withExceptions p.fwdLookup v v

/-- `REV_LOOKUP[v]` (rule R205). -/
def reverseLookup (p : Params) (v : Word) : Word := withExceptions p.revLookup v v

/-- `REV_LOOKUP[FWD_LOOKUP[v]] = v` (rules R6, R205), asked at the listed exceptions; at every other
value both tables are the identity. -/
def lookupsInverse (p : Params) : Bool :=
  (p.fwdLookup.map Prod.fst ++ p.revLookup.map Prod.fst).all fun v =>
    decide (reverseLookup p (forwardLookup p v) = v)

/-- The family a chip is fitted on (rules R2, R23 to R27). -/
def Chip.family : Chip → Family
  | .mk1 .. => .T
  | .mk2 => .T
  | .nbaJam .. => .T
  | .yUnit .. => .Y
  | .serial .. => .Wolf

/-- What the spec demands of a chip's parameters: `MK1_LEN >= 1` (rule R240, U17), `Y_RESET_SEQ` already
masked by `0x0F00` (rule R259). -/
def Chip.wf : Chip → Bool
  | .mk1 table _ => !table.isEmpty
  | .mk2 => true
  | .nbaJam .. => true
  | .yUnit resetSeq .. => resetSeq.toList.all fun v => decide (v &&& 0x0F00#16 = v)
  | .serial .. => true

/-- What the spec demands of the parameters (log 7): stores that a modulo can index, a first and a last
visible line in that order, inverse lookup tables, and a chip of the board's own family. `PAL_MASK` is not
checked: rule R15 types `pal` "low byte zero", rule R6 puts no condition on the mask, and the model accepts
every mask (log 22, DESIGN CHOICE). -/
def Params.wf (p : Params) : Bool :=
  decide (0 < p.vramCells) && decide (0 < p.cmosPageWords) && decide (0 < p.palEntries) &&
  decide (p.visibleFirst ≤ p.visibleLast) && lookupsInverse p &&
  match p.chip with
  | none => true
  | some c => c.wf && decide (c.family = p.family)

/-- Some port offset reaches `COMMAND`. -/
def commandReachable (c : Context) : Bool :=
  (List.finRange 16).any fun k => decide (c.regMap[k] = (14 : Fin 16))

/-- The port offset names a register other than `COMMAND`: a write that reaches `COMMAND` is the
operation its merged word decodes to (rule R82), not a bare `DMA.WR`. -/
def plainRegisterOffset (c : Context) (off : Nat) : Bool :=
  decide (c.regMap[Fin.ofNat 16 off] ≠ (14 : Fin 16))

/-- The fitted chip is chip `k` of 45_protection.md. -/
def chipIs (c : Context) (k : Nat) : Bool :=
  match c.chip with
  | some (.mk1 ..) => k == 1
  | some .mk2 => k == 2
  | some (.nbaJam ..) => k == 3
  | some (.yUnit ..) => k == 4
  | some (.serial ..) => k == 5
  | none => false

/-- An operation that some call carries in this context. Without a board context there is only the attach
(rules R300, R302). -/
def Instr.wf (c : Context) : Instr → Bool
  | .dmaWr off _ _ => c.live && plainRegisterOffset c off
  | .dmaStop _ => c.live && commandReachable c
  | .blt00 _ | .blt01 _ | .blt02 _ | .blt03 _ | .blt04 _ | .blt05 _ | .blt06 _ | .blt07 _
  | .blt08 _ | .blt09 _ | .blt0A _ | .blt0B _ | .blt0C _ | .blt0D _ | .blt0E _ | .blt0F _
  | .blt10 _ | .blt11 _ | .blt12 _ | .blt13 _ | .blt14 _ | .blt15 _ | .blt16 _ | .blt17 _
  | .blt18 _ | .blt19 _ | .blt1A _ | .blt1B _ | .blt1C _ | .blt1D _ | .blt1E _ | .blt1F _ => c.live && commandReachable c
  | .prot1Rd | .prot1Wr _ _ => c.live && chipIs c 1
  | .prot2Rd | .prot2RdSh | .prot2RdC | .prot2Wr _ _ => c.live && chipIs c 2
  | .prot3Rd | .prot3Wr _ _ => c.live && chipIs c 3
  | .prot4Wr _ | .prot4Rd => c.live && chipIs c 4
  | .prot5Wr _ | .prot5Rd | .prot5Status => c.live && chipIs c 5
  | .reset p _ => p.wf
  | .dmaRd _ | .dmaDone | .ctrlWr _ _ | .vramWr _ _ _ | .vramRd _ | .palWr _ _ | .vidLine _ _
  | .vidEof _ | .srToHost _ | .srFromHost _ _ | .cmosRd _ | .cmosWr _ _ _ | .cmosEn _ | .cmosLoad _
  | .cmosSave => c.live

end Sys2Proof
end

