-- ==== Sys2Proof/Decode.lean ====
section
/-! DEFINITION. The decoder (30_encoding.md rules R80 to R84), total and rejecting by name, and the
encoder after it. -/

namespace Sys2Proof

/-- The byte-enable mask as a 16-bit bit mask (rule R52). -/
def ByteMask.bits (k : ByteMask) : Word :=
  (if k.hi then 0xFF00#16 else 0#16) ||| (if k.lo then 0x00FF#16 else 0#16)

/-- A bus mask as byte enables, where it is one of the four of rule R51. -/
def byteMask? (m : Word) : Option ByteMask :=
  if m = 0xFFFF#16 then some ⟨true, true⟩
  else if m = 0x00FF#16 then some ⟨true, false⟩
  else if m = 0xFF00#16 then some ⟨false, true⟩
  else if m = 0x0000#16 then some ⟨false, false⟩
  else none

/-- `merge16(old, data, mask)` of rule R8. -/
def merge16 (old data : Word) (k : ByteMask) : Word :=
  (old &&& ~~~k.bits) ||| (data &&& k.bits)

/-- `REG_MAP[offset & 0xF]` (rule R82). -/
def registerAt (regMap : Vector (Fin 16) 16) (off : Nat) : Fin 16 :=
  regMap[Fin.ofNat 16 off]

/-- A port offset that `REG_MAP` sends to `COMMAND`: the least one; 14 where there is none. -/
def commandOffset (c : Context) : Nat :=
  ((List.finRange 16).find? fun k => decide (c.regMap[k] = (14 : Fin 16))).elim 14 Fin.val

/-- `BLT.mm` by the five mode bits, bit 4 first (rules R83, R86). -/
def bltInstr (xflip nzColor zColor nzCopy zCopy : Bool) (f : BltFields) : Instr :=
  match xflip, nzColor, zColor, nzCopy, zCopy with
  | false, false, false, false, false => .blt00 f
  | false, false, false, false, true => .blt01 f
  | false, false, false, true, false => .blt02 f
  | false, false, false, true, true => .blt03 f
  | false, false, true, false, false => .blt04 f
  | false, false, true, false, true => .blt05 f
  | false, false, true, true, false => .blt06 f
  | false, false, true, true, true => .blt07 f
  | false, true, false, false, false => .blt08 f
  | false, true, false, false, true => .blt09 f
  | false, true, false, true, false => .blt0A f
  | false, true, false, true, true => .blt0B f
  | false, true, true, false, false => .blt0C f
  | false, true, true, false, true => .blt0D f
  | false, true, true, true, false => .blt0E f
  | false, true, true, true, true => .blt0F f
  | true, false, false, false, false => .blt10 f
  | true, false, false, false, true => .blt11 f
  | true, false, false, true, false => .blt12 f
  | true, false, false, true, true => .blt13 f
  | true, false, true, false, false => .blt14 f
  | true, false, true, false, true => .blt15 f
  | true, false, true, true, false => .blt16 f
  | true, false, true, true, true => .blt17 f
  | true, true, false, false, false => .blt18 f
  | true, true, false, false, true => .blt19 f
  | true, true, false, true, false => .blt1A f
  | true, true, false, true, true => .blt1B f
  | true, true, true, false, false => .blt1C f
  | true, true, true, false, true => .blt1D f
  | true, true, true, true, false => .blt1E f
  | true, true, true, true, true => .blt1F f

/-- The operand fields of a command word (rule R83). -/
def bltFields (c : Word) : BltFields where
  bpp := c.extractLsb' 12 3
  postSh := c.extractLsb' 10 2
  preSh := c.extractLsb' 8 2
  skipEn := c.getLsbD 7
  clipDrop := c.getLsbD 6
  yflip := c.getLsbD 5

/-- The command word (format CMD, rule R83): `GO = 0` is `DMA.STOP`, `GO = 1` is `BLT.mm`. -/
def decodeCommand (c : Word) : Instr :=
  if c.getLsbD 15 then
    bltInstr (c.getLsbD 4) (c.getLsbD 3) (c.getLsbD 2) (c.getLsbD 1) (c.getLsbD 0) (bltFields c)
  else .dmaStop (c.setWidth 15)

/-- A protection access: the operation of the fitted chip behind that direction and sub-address
(rule R81; U19 where there is none). `PROT3.WR`, `PROT4.WR` and `PROT5.WR` have no mask operand (rules R81,
R251, R257, R266): whatever mask such a write carries, the chip takes the whole word (log 20). -/
def decodeProtection (chip : Option Chip) (sub : ProtSub) (dir : Dir) (off : Nat) (data mask : Word) :
    Except DecodeReject Instr :=
  match chip, sub, dir with
  | some (.mk1 ..), .plain, .R => .ok .prot1Rd
  | some (.mk1 ..), .plain, .W => (byteMask? mask).elim (.error .badMask) fun k => .ok (.prot1Wr data k)
  | some .mk2, .latch, .R => .ok .prot2Rd
  | some .mk2, .shifted, .R => .ok .prot2RdSh
  | some .mk2, .constant, .R => .ok .prot2RdC
  | some .mk2, .plain, .W => (byteMask? mask).elim (.error .badMask) fun k => .ok (.prot2Wr data k)
  | some (.nbaJam ..), .plain, .R => .ok .prot3Rd
  | some (.nbaJam ..), .plain, .W => .ok (.prot3Wr off data)
  | some (.yUnit ..), .enable, .W => .ok (.prot4Wr data)
  | some (.yUnit ..), .plain, .R => .ok .prot4Rd
  | some (.serial ..), .plain, .W => .ok (.prot5Wr data)
  | some (.serial ..), .plain, .R => .ok .prot5Rd
  | some (.serial ..), .status, .R => .ok .prot5Status
  | _, _, _ => .error .noSuchProtection

/-- A PORT access (rules R80 to R82). A write that reaches `COMMAND` is decoded further, from the whole
merged word (rules R82, R83; log 4). `CMOS.EN` has no mask operand (rule R233), so its mask is not looked at
(log 20); a `paletteWrite` carries none (rule R208). -/
def decodePort (c : Context) (port : Port) (dir : Dir) (off : Nat) (data mask : Word) :
    Except DecodeReject Instr :=
  match port, dir with
  | .register, .W => (byteMask? mask).elim (.error .badMask) fun k =>
      if registerAt c.regMap off = (14 : Fin 16) then .ok (decodeCommand (merge16 c.command data k))
      else .ok (.dmaWr off data k)
  | .register, .R => .ok (.dmaRd off)
  | .control, .W => (byteMask? mask).elim (.error .badMask) fun k => .ok (.ctrlWr data k)
  | .vram, .W => (byteMask? mask).elim (.error .badMask) fun k => .ok (.vramWr off data k)
  | .vram, .R => .ok (.vramRd off)
  | .palette, .W => .ok (.palWr off data)
  | .cmos, .R => .ok (.cmosRd off)
  | .cmos, .W => (byteMask? mask).elim (.error .badMask) fun k => .ok (.cmosWr off data k)
  | .cmosEnable, .W => .ok (.cmosEn data)
  | .protection sub, dir => decodeProtection c.chip sub dir off data mask
  | .control, .R | .palette, .R | .cmosEnable, .R => .error .noSuchAccess

/-- An event (format EVENT, rules R80, R81). -/
def decodeEvent : Event → Except DecodeReject Instr
  | .completion => .ok .dmaDone
  | .displayInterrupt scanline pageflip => .ok (.vidLine scanline pageflip)
  | .endOfFrame pageflip => .ok (.vidEof pageflip)
  | .shiftRegisterToHost addr => .ok (.srToHost addr)
  | .shiftRegisterFromHost addr buffer => .ok (.srFromHost addr buffer)
  | .saveStateLoad blob => .ok (.cmosLoad blob)
  | .saveStateSave => .ok .cmosSave
  | .attach p blob => if p.wf then .ok (.reset p blob) else .error .badParameters
  | .detach => .ok .cmosSave

/-- The call needs no board context: it constructs one (rule R300). -/
def Call.isAttach : Call → Bool
  | .event (.attach _ _) => true
  | .event .completion | .event (.displayInterrupt _ _) | .event (.endOfFrame _)
  | .event (.shiftRegisterToHost _) | .event (.shiftRegisterFromHost _ _) | .event (.saveStateLoad _)
  | .event .saveStateSave | .event .detach => false
  | .port _ _ _ _ _ => false

/-- A call as an operation of rule R81, where there is a board context or the call needs none. A detach is
the operation `CMOS.SAVE`, after which the step destroys the context (rule R302). -/
def decodeCall (c : Context) : Call → Except DecodeReject Instr
  | .port port dir off data mask => decodePort c port dir off data mask
  | .event e => decodeEvent e

/-- The decoder: every call is an operation of rule R81 or is rejected by name. -/
def decode (c : Context) (call : Call) : Except DecodeReject Instr :=
  if c.live || call.isAttach then decodeCall c call else .error .noContext

/-- The command word of `BLT.mm` (rule R83): `1 bbb qq pp s c y mmmmm`. -/
def bltWord (mode : BitVec 5) (f : BltFields) : Word :=
  0x8000#16 ||| (f.bpp.setWidth 16 <<< 12) ||| (f.postSh.setWidth 16 <<< 10) |||
    (f.preSh.setWidth 16 <<< 8) ||| ((BitVec.ofBool f.skipEn).setWidth 16 <<< 7) |||
    ((BitVec.ofBool f.clipDrop).setWidth 16 <<< 6) ||| ((BitVec.ofBool f.yflip).setWidth 16 <<< 5) |||
    mode.setWidth 16

/-- The command word of `DMA.STOP` (rule R83): bit 15 clear, bits 14:0 as given. -/
def stopWord (r : BitVec 15) : Word := r.setWidth 16

/-- The host write `DMA.WR COMMAND, w, 0xFFFF` that carries a command word (rule R92). -/
def commandCall (c : Context) (w : Word) : Call :=
  .port .register .W (commandOffset c) w 0xFFFF#16

/-- The encoder: the call that carries an operation in a context, from the opcode table's encodings.
An operand the operation does not have is sent as 0, an absent mask as `0xFFFF` (rule R92). -/
def encode (c : Context) : Instr → Call
  | .dmaWr off data mask => .port .register .W off data mask.bits
  | .dmaRd off => .port .register .R off 0#16 0xFFFF#16
  | .dmaStop r => commandCall c (stopWord r)
  | .blt00 f => commandCall c (bltWord 0x00#5 f)
  | .blt01 f => commandCall c (bltWord 0x01#5 f)
  | .blt02 f => commandCall c (bltWord 0x02#5 f)
  | .blt03 f => commandCall c (bltWord 0x03#5 f)
  | .blt04 f => commandCall c (bltWord 0x04#5 f)
  | .blt05 f => commandCall c (bltWord 0x05#5 f)
  | .blt06 f => commandCall c (bltWord 0x06#5 f)
  | .blt07 f => commandCall c (bltWord 0x07#5 f)
  | .blt08 f => commandCall c (bltWord 0x08#5 f)
  | .blt09 f => commandCall c (bltWord 0x09#5 f)
  | .blt0A f => commandCall c (bltWord 0x0A#5 f)
  | .blt0B f => commandCall c (bltWord 0x0B#5 f)
  | .blt0C f => commandCall c (bltWord 0x0C#5 f)
  | .blt0D f => commandCall c (bltWord 0x0D#5 f)
  | .blt0E f => commandCall c (bltWord 0x0E#5 f)
  | .blt0F f => commandCall c (bltWord 0x0F#5 f)
  | .blt10 f => commandCall c (bltWord 0x10#5 f)
  | .blt11 f => commandCall c (bltWord 0x11#5 f)
  | .blt12 f => commandCall c (bltWord 0x12#5 f)
  | .blt13 f => commandCall c (bltWord 0x13#5 f)
  | .blt14 f => commandCall c (bltWord 0x14#5 f)
  | .blt15 f => commandCall c (bltWord 0x15#5 f)
  | .blt16 f => commandCall c (bltWord 0x16#5 f)
  | .blt17 f => commandCall c (bltWord 0x17#5 f)
  | .blt18 f => commandCall c (bltWord 0x18#5 f)
  | .blt19 f => commandCall c (bltWord 0x19#5 f)
  | .blt1A f => commandCall c (bltWord 0x1A#5 f)
  | .blt1B f => commandCall c (bltWord 0x1B#5 f)
  | .blt1C f => commandCall c (bltWord 0x1C#5 f)
  | .blt1D f => commandCall c (bltWord 0x1D#5 f)
  | .blt1E f => commandCall c (bltWord 0x1E#5 f)
  | .blt1F f => commandCall c (bltWord 0x1F#5 f)
  | .dmaDone => .event .completion
  | .ctrlWr data mask => .port .control .W 0 data mask.bits
  | .vramWr off data mask => .port .vram .W off data mask.bits
  | .vramRd off => .port .vram .R off 0#16 0xFFFF#16
  | .palWr off data => .port .palette .W off data 0xFFFF#16
  | .vidLine scanline pageflip => .event (.displayInterrupt scanline pageflip)
  | .vidEof pageflip => .event (.endOfFrame pageflip)
  | .srToHost addr => .event (.shiftRegisterToHost addr)
  | .srFromHost addr buffer => .event (.shiftRegisterFromHost addr buffer)
  | .cmosRd off => .port .cmos .R off 0#16 0xFFFF#16
  | .cmosWr off data mask => .port .cmos .W off data mask.bits
  | .cmosEn data => .port .cmosEnable .W 0 data 0xFFFF#16
  | .cmosLoad blob => .event (.saveStateLoad blob)
  | .cmosSave => .event .saveStateSave
  | .prot1Rd => .port (.protection .plain) .R 0 0#16 0xFFFF#16
  | .prot1Wr data mask => .port (.protection .plain) .W 0 data mask.bits
  | .prot2Rd => .port (.protection .latch) .R 0 0#16 0xFFFF#16
  | .prot2RdSh => .port (.protection .shifted) .R 0 0#16 0xFFFF#16
  | .prot2RdC => .port (.protection .constant) .R 0 0#16 0xFFFF#16
  | .prot2Wr data mask => .port (.protection .plain) .W 0 data mask.bits
  | .prot3Rd => .port (.protection .plain) .R 0 0#16 0xFFFF#16
  | .prot3Wr off data => .port (.protection .plain) .W off data 0xFFFF#16
  | .prot4Wr data => .port (.protection .enable) .W 0 data 0xFFFF#16
  | .prot4Rd => .port (.protection .plain) .R 0 0#16 0xFFFF#16
  | .prot5Wr data => .port (.protection .plain) .W 0 data 0xFFFF#16
  | .prot5Rd => .port (.protection .plain) .R 0 0#16 0xFFFF#16
  | .prot5Status => .port (.protection .status) .R 0 0#16 0xFFFF#16
  | .reset p blob => .event (.attach p blob)

/-- The context of the opcode table: a live board, the default register map, an idle command register, no chip. -/
def tableContext : Context where
  live := true
  regMap := #v[0, 1, 2, 3, 4, 5, 6, 7, 8, 9, 10, 11, 12, 13, 14, 15]
  command := 0#16
  chip := none

/-- The operation the decoder reads from a table row's bits. Only the command word has bits (rule R80):
the bits are the data of a whole-word write to `COMMAND`. -/
def decodeTableWord (nbits w : Nat) : Option Instr :=
  if 0 < nbits ∧ nbits ≤ 16 then
    match decode tableContext (commandCall tableContext (BitVec.ofNat 16 (w % 2 ^ nbits))) with
    | .ok i => some i
    | .error _ => none
  else none

end Sys2Proof
end

