-- ==== Sys2Proof/Machine/State.lean ====
section
/-! DEFINITION. The board context (10_state.md): every piece of state as plain data, and its reset. -/

namespace Sys2Proof.Machine

/-- A store of 16-bit cells by index, in one canonical form: indices strictly rising and no cell equal
to `unlistedCell`. The cell is the smallest unit these spaces are addressed in (20_memory.md rule R50;
log 12). -/
abbrev Memory := List (Nat × Word)

/-- What an unlisted cell reads as: the reset contents of rules R42 and R43. -/
def unlistedCell : Word := 0#16

/-- What an operation hands to its collaborator when it returns (log 2). -/
inductive Output where
  /-- The 16-bit result of a host read. -/
  | word (v : Word)
  /-- An RGB888 palette entry pushed to the display palette (rule R208). -/
  | colour (entry : Nat) (r g b : Byte)
  /-- The 1024 words of a shift-register transfer to the host (rule R224). -/
  | buffer (words : List Word)
  /-- The whole CMOS store as bytes (rule R236). -/
  | blob (bytes : List Byte)
deriving DecidableEq, Repr

/-- The board context. -/
structure State where
  /-- The board context exists: "constructed at attach and destroyed at detach" (rules R300, R302). -/
  live : Bool
  /-- The parameters bound at attach (rules R6, R300). -/
  params : Params
  /-- The DMA register set (rule R10). -/
  dma : Vector Word 16
  /-- The completion interrupt line (rule R29). -/
  irq : Bool
  /-- In-flight completions (rule R28). -/
  timers : Nat
  /-- The control register (rule R18). -/
  ctrl : Word
  /-- `bank_select` (rule R18). -/
  bankSelect : Bool
  /-- `autoerase_en` (rule R18). -/
  autoeraseEn : Bool
  /-- `cmos_page`, the page base in words (rule R22). -/
  cmosPage : Nat
  /-- `cmos_we`, the one-shot write enable (rule R22). -/
  cmosWe : Bool
  /-- Video memory (rule R19). -/
  vram : Memory
  /-- The shadow buffer (rule R20; Y and Z). -/
  shadow : Memory
  /-- The palette RAM mirror (rule R21). -/
  palram : Memory
  /-- The CMOS store (rule R22). -/
  cmos : Memory
  /-- `next_line` (rule R20). -/
  nextLine : Nat
  /-- `erase_next` (rule R20). -/
  eraseNext : Nat
  /-- `erase_deferred` (rule R20), a set held as a strictly rising list. -/
  eraseDeferred : List Nat
  /-- Chip 1 (rule R23). -/
  p1Cursor : Nat
  /-- Chip 2 (rule R24). -/
  p2Latch : Word
  /-- Chip 3 (rule R25). -/
  p3Queue : Vector Word 5
  p3Cursor : Fin 5
  /-- Chip 4 (rule R26); slot 0 is the oldest write. -/
  p4Fifo : Vector Word 3
  p4Cursor : Nat
  p4Result : Word
  /-- Chip 5 (rule R27). -/
  p5Cursor : Fin 16
  p5Latch : Byte
  serialStatus : Bool
  /-- The inbound calls not delivered yet, next first: the order of the agents (rule R291; log 1). -/
  pending : List Call
  /-- What the last operation handed out (log 2). -/
  out : Option Output
deriving DecidableEq, Repr

/-- The block raises no fault: "every operation is total by construction" (rules R5, R281). -/
inductive Fault where
deriving DecidableEq, Repr

/-- Where the model answers nothing. Each is safe: the run stops. -/
inductive Refusal where
  /-- Raised by `exec` for an instruction that has no meaning yet; safe. -/
  | notModelled (mnemonic : String)
  /-- Raised by `step` for a call that is no operation of rule R81 (log 3), or that finds no board context
  (log 17); safe. -/
  | undecodable (reason : DecodeReject)
  /-- Raised by a protection operation on a board without that chip (U19 says `refuse`; log 10); safe. -/
  | chipNotFitted
  /-- Raised by `RESET` with parameters the spec rules out (log 7); safe. -/
  | badParameters
deriving DecidableEq, Repr

/-- The state right after an attach with no save file (rules R40 to R44, R300, R301). -/
def attached (p : Params) : State where
  live := true
  params := p
  dma := #v[0, 0, 0, 0, 0, 0, 0, 0, 0, 0, 0, 0, 0, 0, 0, 0]
  irq := false
  timers := 0
  ctrl := 0#16
  bankSelect := match p.family with
    | .Y | .Z => true
    | .T | .Wolf => false
  autoeraseEn := true
  cmosPage := 0
  cmosWe := false
  vram := []
  shadow := []
  palram := []
  cmos := []
  nextLine := p.visibleFirst
  eraseNext := p.visibleFirst
  eraseDeferred := []
  p1Cursor := 0
  p2Latch := 0#16
  p3Queue := #v[0, 0, 0, 0, 0]
  p3Cursor := 0
  p4Fifo := #v[0, 0, 0]
  p4Cursor := 0
  p4Result := 0#16
  p5Cursor := 0
  p5Latch := 0#8
  serialStatus := false
  pending := []
  out := none

/-- The machine right after reset: an attach with the default parameters (log 5) and no save file. -/
def State.reset : State := attached (defaultParams .T [])

end Sys2Proof.Machine
end

