-- ==== Sys2Proof/Machine/Ops.lean ====
section
/-! DEFINITION. The named operations over memory, registers and the inbound calls, and the block's
analogue of exception entry and return (60_exceptions.md). -/

namespace Sys2Proof.Machine

/-! ### Stores of cells -/

/-- The cell at index `k`. -/
def Memory.read : Memory → Nat → Word
  | [], _ => unlistedCell
  | (a, w) :: m, k => if k = a then w else Memory.read m k

/-- Write the cell at index `k`, keeping the canonical form. -/
def Memory.write : Memory → Nat → Word → Memory
  | [], k, v => if v = unlistedCell then [] else [(k, v)]
  | (a, w) :: m, k, v =>
    if k < a then (if v = unlistedCell then (a, w) :: m else (k, v) :: (a, w) :: m)
    else if k = a then (if v = unlistedCell then m else (k, v) :: m)
    else (a, w) :: Memory.write m k v

/-- The canonical form of a store whose indices are all at least `lo`. -/
def Memory.wfFrom (lo : Nat) : Memory → Bool
  | [] => true
  | (a, w) :: m => decide (lo ≤ a) && decide (w ≠ unlistedCell) && Memory.wfFrom (a + 1) m

/-- The canonical form: indices strictly rising, no cell equal to `unlistedCell`. -/
def Memory.wf (m : Memory) : Bool := Memory.wfFrom 0 m

/-- Every listed index is inside a store of `n` cells (rule R59). -/
def Memory.below (m : Memory) (n : Nat) : Bool := m.all fun c => decide (c.1 < n)

/-- Write consecutive cells from index `k` on, each index reduced modulo `n`, in rising order. -/
def Memory.writeWrapped (n : Nat) : Memory → Nat → List Word → Memory
  | m, _, [] => m
  | m, k, w :: ws => Memory.writeWrapped n (m.write (k % n) w) (k + 1) ws

/-! ### Sizes and parameter functions -/

/-- The Y and Z boards: lookup tables, shadow buffer, paged CMOS (rule R2). -/
def isYZ (p : Params) : Bool :=
  match p.family with
  | .Y | .Z => true
  | .T | .Wolf => false

/-- `VRAM_STRIDE` (rule R6). -/
def vramStride : Nat := 512

/-- The index of cell `(row, col)`, reduced modulo `VRAM_CELLS` (rules R19, R59; log 11). -/
def cellIndex (p : Params) (row col : Nat) : Nat := (row * vramStride + col) % p.vramCells

/-- `CMOS_PAGES` (rule R6). -/
def cmosPages (p : Params) : Nat := if isYZ p then 4 else 1

/-- `CMOS_WORDS = CMOS_PAGES * CMOS_PAGE_WORDS` (44_cmos.md, head). -/
def cmosWords (p : Params) : Nat := cmosPages p * p.cmosPageWords

/-- `LINE_ROW(s)`, by default `s & YPOSMASK` (rule R6). -/
def lineRowOf (p : Params) (line : Nat) : Nat :=
  withExceptions p.lineRow (line &&& p.yposMask.toNat) line

/-- `ROM_FOLD(g)`, by default `g` (rule R6). -/
def romFoldOf (p : Params) (g : BitAddr) : BitAddr := withExceptions p.romFold g g

/-- `clampline(s)` (rules R60, R216). -/
def clampLine (p : Params) (s : Int) : Nat :=
  if s < (p.visibleFirst : Int) then p.visibleFirst
  else if (p.visibleLast : Int) < s then p.visibleLast
  else s.toNat

/-! ### Graphics ROM -/

/-- Two bytes as a 16-bit word (rule R52). -/
def pairBytes (hi lo : Byte) : Word := (hi.setWidth 16 <<< 8) ||| lo.setWidth 16

/-- Bits 7:0 of a word (rule R52). -/
def lowByte (w : Word) : Byte := w.extractLsb' 0 8

/-- Bits 15:8 of a word (rule R52). -/
def highByte (w : Word) : Byte := w.extractLsb' 8 8

/-- `RomByte(i)`: the image, and `ROM_PAD` past its end (rule R53). -/
def romByte (p : Params) (i : Nat) : Byte :=
  match p.rom[i]? with
  | some b => b
  | none => Config.romPad i

/-- `RomBits(o, n)`: the `n`-bit field at bit address `o`, least significant bit first (rule R53). The
upper byte of the pair is looked at only by a field that straddles the byte boundary; no other field
depends on it. -/
def romBits (p : Params) (o : BitAddr) (n : Nat) : Word :=
  let b := o.toNat / 8
  let upper : Byte := if o.toNat % 8 + n ≤ 8 then 0#8 else romByte p (b + 1)
  let w := pairBytes upper (romByte p b)
  (w >>> (o.toNat % 8)) &&& BitVec.ofNat 16 (2 ^ n - 1)

/-! ### DMA registers -/

/-- The register numbers of rule R10. -/
abbrev offsetLo : Fin 16 := 0
abbrev offsetHi : Fin 16 := 1
abbrev xStart : Fin 16 := 2
abbrev yStart : Fin 16 := 3
abbrev widthReg : Fin 16 := 4
abbrev heightReg : Fin 16 := 5
abbrev paletteReg : Fin 16 := 6
abbrev colorReg : Fin 16 := 7
abbrev topClip : Fin 16 := 8
abbrev botClip : Fin 16 := 9
abbrev leftClip : Fin 16 := 10
abbrev rightClip : Fin 16 := 11
abbrev scaleX : Fin 16 := 12
abbrev scaleY : Fin 16 := 13
abbrev commandReg : Fin 16 := 14
abbrev spareReg : Fin 16 := 15

/-- `dma[r]` (rules R10, R14: always a definite value). -/
def readReg (s : State) (r : Fin 16) : Word := s.dma[r]

/-- `dma[r] <- v`; it stores and does nothing else (rule R11). -/
def writeReg (s : State) (r : Fin 16) (v : Word) : State :=
  { s with dma := s.dma.set r.val v r.isLt }

/-- What the operation hands out (log 2). -/
def setOut (s : State) (o : Option Output) : State := { s with out := o }

/-- A host read's answer: one 16-bit word. -/
def answer (s : State) (v : Word) : State := setOut s (some (.word v))

/-! ### Completion: the analogue of exception entry and return -/

/-- `Done()`, the completion event (rules R130, R286): the busy bit is cleared, `irq` raised, and in
timer mode one in-flight completion consumed. -/
def done (s : State) : State :=
  let s := { s with timers := if s.params.fastDma then s.timers else s.timers - 1, irq := true }
  writeReg s commandReg (readReg s commandReg &&& 0x7FFF#16)

/-- The acknowledgement, part of every `COMMAND` write (rules R120, R287): `irq <- 0`. -/
def acknowledge (s : State) : State := { s with irq := false }

/-- The nominal completion delay in nanoseconds (rules R129, R289). No rule depends on it. -/
def nominalDelayNs (p : Params) (pixels : Nat) : Nat := pixels * p.dmaNsPerPixel

/-- `ScheduleCompletion(pixels)` (rules R128, R129): at once in fast mode, one more in-flight event in
timer mode. The pixel count sets only the delay (rule R127), which the model does not keep. -/
def scheduleCompletion (_pixels : Nat) (s : State) : State :=
  if s.params.fastDma then done s else { s with timers := s.timers + 1 }

/-! ### Rows, lines and sets of lines -/

/-- Copy row `src` of one store over row `dst` of another, column by column (rule R211). -/
def copyRow (p : Params) (source : Memory) (src : Nat) (target : Memory) (dst : Nat) : Memory :=
  (List.range vramStride).foldl
    (fun m c => m.write (cellIndex p dst c) (source.read (cellIndex p src c))) target

/-- `EraseLine(line)` (rule R214): the reference row, read as it is at each column, over the line's row. -/
def eraseLine (p : Params) (vram : Memory) (line : Nat) : Memory :=
  (List.range vramStride).foldl
    (fun m c => m.write (cellIndex p (lineRowOf p line) c) (m.read (cellIndex p p.autoeraseRow c))) vram

/-- The lines `a .. b`, inclusive and ascending; none if `b < a`. -/
def linesFromTo (a b : Nat) : List Nat := List.range' a (b + 1 - a)

/-- `set ∪ {line}` on a strictly rising list. -/
def insertLine (line : Nat) : List Nat → List Nat
  | [] => [line]
  | l :: ls => if line < l then line :: l :: ls else if line = l then l :: ls else l :: insertLine line ls

/-! ### The CMOS blob -/

/-- The words of a blob, little-endian; a missing last high byte is 0 (rules R52, R235; log 14). -/
def blobWords : List Byte → List Word
  | [] => []
  | [lo] => [pairBytes 0#8 lo]
  | lo :: hi :: rest => pairBytes hi lo :: blobWords rest

/-- The store `CMOS.LOAD` makes of a blob: missing words are 0, words past the store are ignored (rule R235). -/
def loadCmos (p : Params) (blob : Blob) : Memory :=
  match blob with
  | none => []
  | some bytes => Memory.writeWrapped (cmosWords p) [] 0 ((blobWords bytes).take (cmosWords p))

/-- The blob `CMOS.SAVE` hands out: every word of the store, low byte first (rules R52, R236). -/
def saveCmos (p : Params) (cmos : Memory) : List Byte :=
  (List.range (cmosWords p)).flatMap fun k =>
    [lowByte (cmos.read k), highByte (cmos.read k)]

/-! ### The inbound calls -/

/-- What the decoder looks at (rules R81 to R83, R302). -/
def State.context (s : State) : Context where
  live := s.live
  regMap := s.params.regMap
  command := readReg s commandReg
  chip := s.params.chip

/-- The board context is destroyed, and the completions in flight are dropped with it (rule R302, U10,
decision D40). What the fields held stands there still, out of every agent's reach (log 17). -/
def destroyContext (s : State) : State := { s with live := false, timers := 0 }

/-- What a call does once its operation is carried out: a detach destroys the context (rule R302), and no
other call does anything more. -/
def conclude (call : Call) (s : State) : State :=
  if call = .event .detach then destroyContext s else s

/-- The next inbound call, if any (log 1). -/
def fetch (s : State) : Option Call := s.pending.head?

/-- The call just carried out leaves the list of pending calls. -/
def retire (s : State) : State := { s with pending := s.pending.tail }

/-- The run is over: no further call and no completion in flight (rule R312). The rule asks it of the host's
operations; the model asks that no call of any agent is left (log 21, DESIGN CHOICE). -/
def runOver (s : State) : Bool := s.pending.isEmpty && decide (s.timers = 0)

end Sys2Proof.Machine
end

