-- ==== Sys2Proof/Machine/Operands.lean ====
section
/-! DEFINITION. Operand forms: the draw policies (30_encoding.md rule R86), the transfer descriptor
(10_state.md rule R15), and the cells a host word addresses (43_video_memory.md rule R202). -/

namespace Sys2Proof.Machine

/-- What a source pixel class does to the destination cell (rule R86). -/
inductive Policy where
  | none | copy | color
deriving DecidableEq, Repr

/-- A blitter variant: the three axes the 5-bit mode selects (rules R86, R123). -/
structure Variant where
  zero : Policy
  nonzero : Policy
  xflip : Bool
deriving DecidableEq, Repr

/-- The policy of one pixel class from its colour and its copy bit; COLOR wins (rule R86). -/
def policyOf (colorBit copyBit : Bool) : Policy :=
  if colorBit then .color else if copyBit then .copy else .none

/-- The variant of a command word, from its mode bits 4:0 (rule R86). -/
def variantOf (c : Word) : Variant where
  zero := policyOf (c.getLsbD 2) (c.getLsbD 0)
  nonzero := policyOf (c.getLsbD 3) (c.getLsbD 1)
  xflip := c.getLsbD 4

/-- `bpp`: the field, and 8 where it is 0 (rules R15, R84). -/
def bppOf (f : BltFields) : Nat := if f.bpp = 0#3 then 8 else f.bpp.toNat

/-- The transfer descriptor (rule R15): a value of one command, not state. -/
structure Descriptor where
  offset : BitAddr
  xpos : Word
  ypos : Word
  width : Nat
  height : Nat
  pal : Word
  color : Word
  bpp : Nat
  yflip : Bool
  xflip : Bool
  preskipSh : Nat
  postskipSh : Nat
  skip : Bool
  clipdrop : Bool
  zero : Policy
  nonzero : Policy
  topclip : Nat
  botclip : Nat
  leftclip : Nat
  rightclip : Nat
  xstep : Nat
  ystep : Nat
deriving DecidableEq, Repr

/-- `(dma[OFFSETHI] << 16) | dma[OFFSETLO]` (rules R85, R124). -/
def sourceOffset (s : State) : BitAddr :=
  ((readReg s offsetHi).setWidth 32 <<< 16) ||| (readReg s offsetLo).setWidth 32

/-- A scale register as an 8.8 step: 0 means `0x100` (rule R15). -/
def stepOf (v : Word) : Nat := if v = 0#16 then 0x100 else v.toNat

/-- The palette bank of a descriptor, `dma[PALETTE] & PAL_MASK` (rule R15). -/
def paletteBank (s : State) : Word := readReg s paletteReg &&& s.params.palMask

/-- `BuildDescriptor(c)` (rules R15, R122), for the variant `v` of the command. -/
def buildDescriptor (c : Word) (v : Variant) (s : State) : Descriptor :=
  let f := bltFields c
  { offset := romFoldOf s.params (sourceOffset s)
    xpos := readReg s xStart &&& s.params.xposMask
    ypos := readReg s yStart &&& s.params.yposMask
    width := (readReg s widthReg &&& 0x3FF#16).toNat
    height := (readReg s heightReg &&& 0x3FF#16).toNat
    pal := paletteBank s
    color := paletteBank s ||| (readReg s colorReg &&& 0x00FF#16)
    bpp := bppOf f
    yflip := f.yflip
    xflip := v.xflip
    preskipSh := f.preSh.toNat
    postskipSh := f.postSh.toNat
    skip := f.skipEn
    clipdrop := f.clipDrop
    zero := v.zero
    nonzero := v.nonzero
    topclip := (readReg s topClip &&& 0x1FF#16).toNat
    botclip := (readReg s botClip &&& 0x1FF#16).toNat
    leftclip := (readReg s leftClip &&& 0x3FF#16).toNat
    rightclip := (readReg s rightClip &&& 0x3FF#16).toNat
    xstep := stepOf (readReg s scaleX)
    ystep := stepOf (readReg s scaleY) }

/-- The cell of a host word's low byte (rules R201, R202). -/
def evenCell (p : Params) (off : Nat) : Nat := (2 * off) % p.vramCells

/-- The cell of a host word's high byte (rules R201, R202). -/
def oddCell (p : Params) (off : Nat) : Nat := (2 * off + 1) % p.vramCells

/-- The CMOS word a port offset addresses (rules R230, R231). -/
def cmosAddress (s : State) (off : Nat) : Nat := (off + s.cmosPage) % cmosWords s.params

/-- The palette entry a port offset addresses (rule R208). -/
def paletteEntry (p : Params) (off : Nat) : Nat := off % p.palEntries

/-- The first cell of a shift-register transfer (rules R224, R225). -/
def shiftCell (p : Params) (addr : Nat) : Nat := (addr / 8) % p.vramCells

end Sys2Proof.Machine
end

