-- ==== Sys2Proof/Machine/Flags.lean ====
section
/-! DEFINITION. The one-bit state elements of 10_state.md rule R17 and the fields decoded from `ctrl`
(rule R18). No arithmetic condition codes exist. -/

namespace Sys2Proof.Machine

/-- `COMMAND[15]`, go and busy (rule R13). -/
def busy (s : State) : Bool := (readReg s commandReg).getLsbD 15

/-- `timer_pending` (rules R17, R28). -/
def timerPending (s : State) : Bool := decide (0 < s.timers)

/-- `DMA.DONE` is enabled: "in timer mode iff `timers > 0`" (rule R130); fast mode has no such event
(rules R64, R128). -/
def completionEnabled (s : State) : Bool := !s.params.fastDma && timerPending s

/-- `bank_select` as a control value decodes (rules R18, R200). -/
def bankOf (p : Params) (ctrl : Word) : Bool :=
  if isYZ p then !ctrl.getLsbD 5 else ctrl.getLsbD 5

/-- `autoerase_en` as a control value decodes (rules R18, R200). -/
def autoeraseOf (ctrl : Word) : Bool := !ctrl.getLsbD 4

/-- The page base a control value selects on Y/Z (rules R18, R200, R234). -/
def pageOf (p : Params) (ctrl : Word) : Nat := (ctrl.extractLsb' 6 2).toNat * p.cmosPageWords

/-- The control write's effect on `ctrl` and the fields decoded from it (rule R200); on T and Wolf
`cmos_page` stays as it is. -/
def writeControl (s : State) (ctrl : Word) : State :=
  { s with
    ctrl := ctrl
    bankSelect := bankOf s.params ctrl
    autoeraseEn := autoeraseOf ctrl
    cmosPage := if isYZ s.params then pageOf s.params ctrl else s.cmosPage }

/-- `WriteAllowed()` (rule R232): T bypasses the guard; Wolf, Y and Z enforce it. -/
def cmosWriteAllowed (s : State) : Bool :=
  match s.params.family with
  | .T => true
  | .Wolf | .Y | .Z => s.cmosWe

end Sys2Proof.Machine
end

