-- ==== Sys2Proof/Machine/Draw.lean ====
section
/-! DEFINITION. The blitter's transfer algorithm (42_blitter.md rule R141) and the command decoder's body
(41_command.md rules R120 to R129), shared by the 32 modes. The while loops of rule R141 run on fuel that
their accumulators cannot use up, since both steps are at least 1 (rule R150; log 18). -/

namespace Sys2Proof.Machine

/-- One column in the direction of travel, reduced by `XPOSMASK` (rules R141, R148). -/
def stepColumn (p : Params) (d : Descriptor) (sx : Word) (n : Nat) : Word :=
  (if d.xflip then sx - BitVec.ofNat 16 n else sx + BitVec.ofNat 16 n) &&& p.xposMask

/-- One row in the direction of travel, reduced by `YPOSMASK` (rules R141, R148). -/
def stepRow (p : Params) (d : Descriptor) (sy : Word) : Word :=
  (if d.yflip then sy - 1#16 else sy + 1#16) &&& p.yposMask

/-- The column lies inside `[leftclip, rightclip]` (rule R144). -/
def insideX (d : Descriptor) (sx : Word) : Bool :=
  decide (d.leftclip ≤ sx.toNat) && decide (sx.toNat ≤ d.rightclip)

/-- The row lies inside `[topclip, botclip]` (rule R143). -/
def insideY (d : Descriptor) (sy : Word) : Bool :=
  decide (d.topclip ≤ sy.toNat) && decide (sy.toNat ≤ d.botclip)

/-- The policy of a source pixel's class (rule R141 (c)). -/
def pixelPolicy (d : Descriptor) (px : Word) : Policy := if px = 0#16 then d.zero else d.nonzero

/-- What the blitter emits for a source pixel, if anything (rule R146). -/
def emitted (d : Descriptor) (px : Word) : Option Word :=
  match pixelPolicy d px with
  | .none => none
  | .copy => some (px ||| d.pal)
  | .color => some d.color

/-- One destination pixel: what the source pixel at `o` emits, over the whole cell `(sy, sx)`
(rules R141 (c), R145, R146). -/
def plotPixel (p : Params) (d : Descriptor) (sy sx : Word) (o : BitAddr) (vram : Memory) : Memory :=
  match emitted d (romBits p o d.bpp) with
  | none => vram
  | some v => vram.write (cellIndex p sy.toNat sx.toNat) v

/-- The bit cursor after the source accumulator moved from `ix` to `ix'`: `bpp` bits for each whole
pixel crossed (rules R141 (c), R147). -/
def advanceCursor (d : Descriptor) (o : BitAddr) (ix ix' : Nat) : BitAddr :=
  o + BitVec.ofNat 32 (d.bpp * (ix' / 256 - ix / 256))

/-- The pixel loop, `while ix < W` (rule R141 (c)). -/
def pixelLoop (p : Params) (d : Descriptor) (sy : Word) (W : Nat) :
    Nat → Word → Nat → BitAddr → Memory → Memory
  | 0, _, _, _, vram => vram
  | fuel + 1, sx, ix, o, vram =>
    if ix < W then
      pixelLoop p d sy W fuel (stepColumn p d sx 1) (ix + d.xstep)
        (advanceCursor d o ix (ix + d.xstep))
        (if insideX d sx then plotPixel p d sy sx o vram else vram)
    else vram

/-- `Cols(sx, ix, W, d)`: the columns the pixel loop would visit, in order (rule R141). -/
def visitedColumns (p : Params) (d : Descriptor) (W : Nat) : Nat → Word → Nat → List Word
  | 0, _, _ => []
  | fuel + 1, sx, ix =>
    if ix < W then sx :: visitedColumns p d W fuel (stepColumn p d sx 1) (ix + d.xstep) else []

/-- The set-up of one row (rule R141 (a)): the first column, the source accumulator, its limit and the
bit cursor. -/
structure RowStart where
  sx : Word
  ix : Nat
  limit : Nat
  cursor : BitAddr
deriving DecidableEq, Repr

/-- The pixels a control byte skips at the start of a row (rule R89). -/
def preSkip (p : Params) (d : Descriptor) (o : BitAddr) : Nat :=
  ((romBits p o 8).extractLsb' 0 4).toNat <<< d.preskipSh

/-- The pixels a control byte skips at the end of a row (rule R89). -/
def postSkip (p : Params) (d : Descriptor) (o : BitAddr) : Nat :=
  ((romBits p o 8).extractLsb' 4 4).toNat <<< d.postskipSh

/-- Row set-up (rules R141 (a), R142). The limit is cut at 0, which ends the pixel loop as a negative
limit does. -/
def rowStart (p : Params) (d : Descriptor) (offset : BitAddr) : RowStart :=
  if d.skip then
    let tx := (preSkip p d offset * 256) / d.xstep
    { sx := stepColumn p d d.xpos tx
      ix := tx * d.xstep
      limit := d.width * 256 - postSkip p d offset * 256
      cursor := offset + 8#32 }
  else
    { sx := d.xpos, ix := 0, limit := d.width * 256, cursor := offset }

/-- The row is drawn at all (rule R141 (b)): vertical clip, and in the drop variant every visited column
inside the horizontal clip (rules R143, R144). -/
def rowVisible (p : Params) (d : Descriptor) (sy : Word) (r : RowStart) : Bool :=
  insideY d sy && (!d.clipdrop || (visitedColumns p d r.limit r.limit r.sx r.ix).all (insideX d))

/-- One destination row from the source row at `offset` (rule R141 (a) to (c)). -/
def drawRow (p : Params) (d : Descriptor) (sy : Word) (offset : BitAddr) (vram : Memory) : Memory :=
  let r := rowStart p d offset
  if rowVisible p d sy r then pixelLoop p d sy r.limit r.limit r.sx r.ix r.cursor vram else vram

/-- `NextRow(offset, d)`: the bit address of the next source row (rules R141, R142). -/
def nextRow (p : Params) (d : Descriptor) (offset : BitAddr) : BitAddr :=
  if d.skip then
    offset + 8#32 +
      BitVec.ofNat 32 ((d.width - preSkip p d offset - postSkip p d offset) * d.bpp)
  else offset + BitVec.ofNat 32 (d.width * d.bpp)

/-- `NextRow`, `n` times (rules R141 (d), R149). -/
def nextRows (p : Params) (d : Descriptor) : Nat → BitAddr → BitAddr
  | 0, offset => offset
  | n + 1, offset => nextRows p d n (nextRow p d offset)

/-- The row loop, `while iy < H` (rule R141). -/
def rowLoop (p : Params) (d : Descriptor) : Nat → Word → Nat → BitAddr → Memory → Memory
  | 0, _, _, _, vram => vram
  | fuel + 1, sy, iy, offset, vram =>
    if iy < d.height * 256 then
      rowLoop p d fuel (stepRow p d sy) (iy + d.ystep)
        (nextRows p d ((iy + d.ystep) / 256 - iy / 256) offset)
        (drawRow p d sy offset vram)
    else vram

/-- `Draw(d)` (rules R140, R141). -/
def draw (p : Params) (d : Descriptor) (vram : Memory) : Memory :=
  rowLoop p d (d.height * 256) d.ypos 0 d.offset vram

/-- The resolved source bit offset lies inside the ROM window (rules R58, R125). -/
def insideWindow (s : State) : Bool :=
  decide ((romFoldOf s.params (sourceOffset s)).toNat < s.params.romWindowBits)

/-- `Go(c)` for the variant `v` (rule R121): draw unless the source is out of the window, and schedule
the completion either way (rules R125, R131). -/
def go (c : Word) (v : Variant) (s : State) : State :=
  let d := buildDescriptor c v s
  scheduleCompletion (d.width * d.height)
    (if insideWindow s then { s with vram := draw s.params d s.vram } else s)

/-- The command word arrives in `COMMAND` and the line drops (rules R110, R120). -/
def latchCommand (c : Word) (s : State) : State :=
  acknowledge (writeReg s commandReg c)

/-- `CommandWritten()` on the merged word `c` (rule R120): a stop if bit 15 is clear, else `Go(c)` with
the variant its mode bits select (rule R123). -/
def commandWritten (c : Word) (s : State) : State :=
  if c.getLsbD 15 then go c (variantOf c) (latchCommand c s) else latchCommand c s

/-- The body of `BLT.mm` (42_blitter.md, section 2): the go command word of mode `mode` with its operand
fields, drawn with the variant the mode's own rule states. -/
def runBlit (mode : BitVec 5) (v : Variant) (f : BltFields) (s : State) : State :=
  setOut (go (bltWord mode f) v (latchCommand (bltWord mode f) s)) none

end Sys2Proof.Machine
end

