-- ==== Sys2Proof/Machine/Blit.lean ====
section
/-! DEFINITION. The meanings of `BLT.00` to `BLT.1F` (42_blitter.md rules R160 to R191), each with the
policies and the x direction its own rule states. -/

namespace Sys2Proof.Machine

/-- `BLT.00` (rule R160): zero NONE, nonzero NONE, x-flip 0. -/
def execBlt00 (f : BltFields) (s : State) : Host.Outcome State Fault Refusal :=
  .next (runBlit 0x00#5 ⟨.none, .none, false⟩ f s)

/-- `BLT.01` (rule R161): zero COPY, nonzero NONE, x-flip 0. -/
def execBlt01 (f : BltFields) (s : State) : Host.Outcome State Fault Refusal :=
  .next (runBlit 0x01#5 ⟨.copy, .none, false⟩ f s)

/-- `BLT.02` (rule R162): zero NONE, nonzero COPY, x-flip 0. -/
def execBlt02 (f : BltFields) (s : State) : Host.Outcome State Fault Refusal :=
  .next (runBlit 0x02#5 ⟨.none, .copy, false⟩ f s)

/-- `BLT.03` (rule R163): zero COPY, nonzero COPY, x-flip 0. -/
def execBlt03 (f : BltFields) (s : State) : Host.Outcome State Fault Refusal :=
  .next (runBlit 0x03#5 ⟨.copy, .copy, false⟩ f s)

/-- `BLT.04` (rule R164): zero COLOR, nonzero NONE, x-flip 0. -/
def execBlt04 (f : BltFields) (s : State) : Host.Outcome State Fault Refusal :=
  .next (runBlit 0x04#5 ⟨.color, .none, false⟩ f s)

/-- `BLT.05` (rule R165): zero COLOR, nonzero NONE, x-flip 0. -/
def execBlt05 (f : BltFields) (s : State) : Host.Outcome State Fault Refusal :=
  .next (runBlit 0x05#5 ⟨.color, .none, false⟩ f s)

/-- `BLT.06` (rule R166): zero COLOR, nonzero COPY, x-flip 0. -/
def execBlt06 (f : BltFields) (s : State) : Host.Outcome State Fault Refusal :=
  .next (runBlit 0x06#5 ⟨.color, .copy, false⟩ f s)

/-- `BLT.07` (rule R167): zero COLOR, nonzero COPY, x-flip 0. -/
def execBlt07 (f : BltFields) (s : State) : Host.Outcome State Fault Refusal :=
  .next (runBlit 0x07#5 ⟨.color, .copy, false⟩ f s)

/-- `BLT.08` (rule R168): zero NONE, nonzero COLOR, x-flip 0. -/
def execBlt08 (f : BltFields) (s : State) : Host.Outcome State Fault Refusal :=
  .next (runBlit 0x08#5 ⟨.none, .color, false⟩ f s)

/-- `BLT.09` (rule R169): zero COPY, nonzero COLOR, x-flip 0. -/
def execBlt09 (f : BltFields) (s : State) : Host.Outcome State Fault Refusal :=
  .next (runBlit 0x09#5 ⟨.copy, .color, false⟩ f s)

/-- `BLT.0A` (rule R170): zero NONE, nonzero COLOR, x-flip 0. -/
def execBlt0A (f : BltFields) (s : State) : Host.Outcome State Fault Refusal :=
  .next (runBlit 0x0A#5 ⟨.none, .color, false⟩ f s)

/-- `BLT.0B` (rule R171): zero COPY, nonzero COLOR, x-flip 0. -/
def execBlt0B (f : BltFields) (s : State) : Host.Outcome State Fault Refusal :=
  .next (runBlit 0x0B#5 ⟨.copy, .color, false⟩ f s)

/-- `BLT.0C` (rule R172): zero COLOR, nonzero COLOR, x-flip 0. -/
def execBlt0C (f : BltFields) (s : State) : Host.Outcome State Fault Refusal :=
  .next (runBlit 0x0C#5 ⟨.color, .color, false⟩ f s)

/-- `BLT.0D` (rule R173): zero COLOR, nonzero COLOR, x-flip 0. -/
def execBlt0D (f : BltFields) (s : State) : Host.Outcome State Fault Refusal :=
  .next (runBlit 0x0D#5 ⟨.color, .color, false⟩ f s)

/-- `BLT.0E` (rule R174): zero COLOR, nonzero COLOR, x-flip 0. -/
def execBlt0E (f : BltFields) (s : State) : Host.Outcome State Fault Refusal :=
  .next (runBlit 0x0E#5 ⟨.color, .color, false⟩ f s)

/-- `BLT.0F` (rule R175): zero COLOR, nonzero COLOR, x-flip 0. -/
def execBlt0F (f : BltFields) (s : State) : Host.Outcome State Fault Refusal :=
  .next (runBlit 0x0F#5 ⟨.color, .color, false⟩ f s)

/-- `BLT.10` (rule R176): zero NONE, nonzero NONE, x-flip 1. -/
def execBlt10 (f : BltFields) (s : State) : Host.Outcome State Fault Refusal :=
  .next (runBlit 0x10#5 ⟨.none, .none, true⟩ f s)

/-- `BLT.11` (rule R177): zero COPY, nonzero NONE, x-flip 1. -/
def execBlt11 (f : BltFields) (s : State) : Host.Outcome State Fault Refusal :=
  .next (runBlit 0x11#5 ⟨.copy, .none, true⟩ f s)

/-- `BLT.12` (rule R178): zero NONE, nonzero COPY, x-flip 1. -/
def execBlt12 (f : BltFields) (s : State) : Host.Outcome State Fault Refusal :=
  .next (runBlit 0x12#5 ⟨.none, .copy, true⟩ f s)

/-- `BLT.13` (rule R179): zero COPY, nonzero COPY, x-flip 1. -/
def execBlt13 (f : BltFields) (s : State) : Host.Outcome State Fault Refusal :=
  .next (runBlit 0x13#5 ⟨.copy, .copy, true⟩ f s)

/-- `BLT.14` (rule R180): zero COLOR, nonzero NONE, x-flip 1. -/
def execBlt14 (f : BltFields) (s : State) : Host.Outcome State Fault Refusal :=
  .next (runBlit 0x14#5 ⟨.color, .none, true⟩ f s)

/-- `BLT.15` (rule R181): zero COLOR, nonzero NONE, x-flip 1. -/
def execBlt15 (f : BltFields) (s : State) : Host.Outcome State Fault Refusal :=
  .next (runBlit 0x15#5 ⟨.color, .none, true⟩ f s)

/-- `BLT.16` (rule R182): zero COLOR, nonzero COPY, x-flip 1. -/
def execBlt16 (f : BltFields) (s : State) : Host.Outcome State Fault Refusal :=
  .next (runBlit 0x16#5 ⟨.color, .copy, true⟩ f s)

/-- `BLT.17` (rule R183): zero COLOR, nonzero COPY, x-flip 1. -/
def execBlt17 (f : BltFields) (s : State) : Host.Outcome State Fault Refusal :=
  .next (runBlit 0x17#5 ⟨.color, .copy, true⟩ f s)

/-- `BLT.18` (rule R184): zero NONE, nonzero COLOR, x-flip 1. -/
def execBlt18 (f : BltFields) (s : State) : Host.Outcome State Fault Refusal :=
  .next (runBlit 0x18#5 ⟨.none, .color, true⟩ f s)

/-- `BLT.19` (rule R185): zero COPY, nonzero COLOR, x-flip 1. -/
def execBlt19 (f : BltFields) (s : State) : Host.Outcome State Fault Refusal :=
  .next (runBlit 0x19#5 ⟨.copy, .color, true⟩ f s)

/-- `BLT.1A` (rule R186): zero NONE, nonzero COLOR, x-flip 1. -/
def execBlt1A (f : BltFields) (s : State) : Host.Outcome State Fault Refusal :=
  .next (runBlit 0x1A#5 ⟨.none, .color, true⟩ f s)

/-- `BLT.1B` (rule R187): zero COPY, nonzero COLOR, x-flip 1. -/
def execBlt1B (f : BltFields) (s : State) : Host.Outcome State Fault Refusal :=
  .next (runBlit 0x1B#5 ⟨.copy, .color, true⟩ f s)

/-- `BLT.1C` (rule R188): zero COLOR, nonzero COLOR, x-flip 1. -/
def execBlt1C (f : BltFields) (s : State) : Host.Outcome State Fault Refusal :=
  .next (runBlit 0x1C#5 ⟨.color, .color, true⟩ f s)

/-- `BLT.1D` (rule R189): zero COLOR, nonzero COLOR, x-flip 1. -/
def execBlt1D (f : BltFields) (s : State) : Host.Outcome State Fault Refusal :=
  .next (runBlit 0x1D#5 ⟨.color, .color, true⟩ f s)

/-- `BLT.1E` (rule R190): zero COLOR, nonzero COLOR, x-flip 1. -/
def execBlt1E (f : BltFields) (s : State) : Host.Outcome State Fault Refusal :=
  .next (runBlit 0x1E#5 ⟨.color, .color, true⟩ f s)

/-- `BLT.1F` (rule R191): zero COLOR, nonzero COLOR, x-flip 1. -/
def execBlt1F (f : BltFields) (s : State) : Host.Outcome State Fault Refusal :=
  .next (runBlit 0x1F#5 ⟨.color, .color, true⟩ f s)

end Sys2Proof.Machine
end

