-- ==== Sys2Proof/Machine/Prot.lean ====
section
/-! DEFINITION. The meanings of the protection-chip operations (45_protection.md). An operation of a chip
that is not fitted is refused (93_implementation_defined.md U19; log 10). -/

namespace Sys2Proof.Machine

/-! ### Chip 1 -/

/-- The cursor a chip 1 read uses: past the table's end it restarts at 0 (rule R240). -/
def mk1Index (table : List (BitVec 6)) (cursor : Nat) : Nat :=
  if table.length ≤ cursor then 0 else cursor

/-- `PROT1.RD` (rule R240). -/
def execProt1Rd (s : State) : Host.Outcome State Fault Refusal :=
  match s.params.chip with
  | some (.mk1 table _) =>
    .next (answer { s with p1Cursor := mk1Index table s.p1Cursor + 1 }
      ((table.getD (mk1Index table s.p1Cursor) 0#6).setWidth 16 <<< 9))
  | _ => .refused .chipNotFitted

/-- The cursor a chip 1 write selects: the least position of the 6-bit field written, else 0 (rule R241). -/
def mk1Search (table : List (BitVec 6)) (wrShift : Nat) (data : Word) : Nat :=
  (table.findIdx? fun v => decide (v = data.extractLsb' wrShift 6)).getD 0

/-- `PROT1.WR data, mask` (rule R241): it acts only if the high byte is enabled. -/
def execProt1Wr (data : Word) (mask : ByteMask) (s : State) : Host.Outcome State Fault Refusal :=
  match s.params.chip with
  | some (.mk1 table wrShift) =>
    .next (setOut { s with p1Cursor := if mask.hi then mk1Search table wrShift data else s.p1Cursor } none)
  | _ => .refused .chipNotFitted

/-! ### Chip 2 -/

/-- `PROT2.RD` (rule R245). -/
def execProt2Rd (s : State) : Host.Outcome State Fault Refusal :=
  match s.params.chip with
  | some .mk2 => .next (answer s s.p2Latch)
  | _ => .refused .chipNotFitted

/-- `PROT2.RDSH` (rule R246). -/
def execProt2RdSh (s : State) : Host.Outcome State Fault Refusal :=
  match s.params.chip with
  | some .mk2 => .next (answer s (s.p2Latch >>> 1))
  | _ => .refused .chipNotFitted

/-- `PROT2.RDC` (rule R247). -/
def execProt2RdC (s : State) : Host.Outcome State Fault Refusal :=
  match s.params.chip with
  | some .mk2 => .next (answer s 0x0002#16)
  | _ => .refused .chipNotFitted

/-- `PROT2.WR data, mask` (rule R248). -/
def execProt2Wr (data : Word) (mask : ByteMask) (s : State) : Host.Outcome State Fault Refusal :=
  match s.params.chip with
  | some .mk2 => .next (setOut { s with p2Latch := merge16 s.p2Latch data mask } none)
  | _ => .refused .chipNotFitted

/-! ### Chip 3 -/

/-- The read cursor after a read: it sticks at the last slot (rule R250). -/
def queueStep (cursor : Fin 5) : Fin 5 := if cursor.val < 4 then cursor + 1 else cursor

/-- `PROT3.RD` (rule R250). -/
def execProt3Rd (s : State) : Host.Outcome State Fault Refusal :=
  match s.params.chip with
  | some (.nbaJam ..) => .next (answer { s with p3Cursor := queueStep s.p3Cursor } s.p3Queue[s.p3Cursor])
  | _ => .refused .chipNotFitted

/-- A table byte as the queue presents it: `byte << 9`, kept to 16 bits (rule R251). -/
def queueByte (b : Byte) : Word := b.setWidth 16 <<< 9

/-- The five queue slots a chip 3 write fills (rule R251). -/
def queueFill (v : BitVec 32) (slot0 : Word) : Vector Word 5 :=
  #v[slot0, queueByte (v.extractLsb' 24 8), queueByte (v.extractLsb' 16 8),
    queueByte (v.extractLsb' 8 8), queueByte (v.extractLsb' 0 8)]

/-- `PROT3.WR off, data` (rule R251). -/
def execProt3Wr (off : Nat) (data : Word) (s : State) : Host.Outcome State Fault Refusal :=
  match s.params.chip with
  | some (.nbaJam table idxShift q0Mask) =>
    .next (setOut { s with
      p3Queue := queueFill table[Fin.ofNat 128 (off >>> idxShift)] (data &&& q0Mask)
      p3Cursor := 0 } none)
  | _ => .refused .chipNotFitted

/-! ### Chip 4, and the enable write it shares with the CMOS controller -/

/-- The chip 4 FIFO after a write of `d` (rules R257, R258). -/
def fifoShift (fifo : Vector Word 3) (d : Word) : Vector Word 3 := #v[fifo[1], fifo[2], d]

/-- The cursor after the reset test (rule R259). -/
def resetCursor (fifo resetSeq : Vector Word 3) (cursor : Nat) : Nat :=
  if fifo = resetSeq then 0 else cursor

/-- A falling edge of bit `0x0800` between slots 1 and 2 (rule R260). -/
def fallingEdge (fifo : Vector Word 3) : Bool := fifo[1].getLsbD 11 && !fifo[2].getLsbD 11

/-- `SF_TRANSFORM(w)`, by default `w << 4`, kept to 16 bits (rule R262). -/
def strikeForceTransform (ex : List (Word × Word)) (w : Word) : Word := withExceptions ex (w <<< 4) w

/-- The Strike Force bypass (rule R262). -/
def strikeForceWrite (code : Word) (ex : List (Word × Word)) (d : Word) (s : State) : State :=
  { s with p4Result := if d = 0x0500#16 then strikeForceTransform ex code else s.p4Result }

/-- Reset detection, then the clock (rules R257, R259, R260), on the FIFO already shifted. The cursor
is clamped at the table's end, never wrapped. -/
def protocolWrite (resetSeq : Vector Word 3) (dataSeq : List Word) (s : State) : State :=
  let cursor := resetCursor s.p4Fifo resetSeq s.p4Cursor
  let last := dataSeq.length - 1
  if fallingEdge s.p4Fifo && !dataSeq.isEmpty then
    { s with
      p4Result := dataSeq.getD (min cursor last) 0#16
      p4Cursor := min (cursor + 1) last }
  else { s with p4Cursor := cursor }

/-- Chip 4's part of an enable write (rule R257). -/
def chip4Write (resetSeq : Vector Word 3) (dataSeq : List Word) (strikeForce : Bool) (code : Word)
    (ex : List (Word × Word)) (data : Word) (s : State) : State :=
  let d := data &&& 0x0F00#16
  let t := { s with p4Fifo := fifoShift s.p4Fifo d }
  if strikeForce then strikeForceWrite code ex d t else protocolWrite resetSeq dataSeq t

/-- The host's enable write (rules R233, R257; decision D43): it sets the one-shot CMOS permission, and
where chip 4 is fitted (the Y board) the same write feeds that chip. -/
def enableWrite (data : Word) (s : State) : State :=
  let t := { s with cmosWe := true }
  match s.params.chip with
  | some (.yUnit resetSeq dataSeq strikeForce code ex) =>
    chip4Write resetSeq dataSeq strikeForce code ex data t
  | _ => t

/-- `PROT4.WR data` (rules R257 to R262): the enable write seen from the chip; it is the same host write
that performs `CMOS.EN` (decision D43). -/
def execProt4Wr (data : Word) (s : State) : Host.Outcome State Fault Refusal :=
  match s.params.chip with
  | some (.yUnit ..) => .next (setOut (enableWrite data s) none)
  | _ => .refused .chipNotFitted

/-- `PROT4.RD` (rule R261). -/
def execProt4Rd (s : State) : Host.Outcome State Fault Refusal :=
  match s.params.chip with
  | some (.yUnit ..) => .next (answer s s.p4Result)
  | _ => .refused .chipNotFitted

/-! ### Chip 5 -/

/-- The clock bit of a chip 5 write (rule R266). -/
def serialClock (data : Word) : Bool := data.getLsbD 4

/-- The self-test echo path of a chip 5 write (rule R266). -/
def serialEcho (data : Word) : Bool := decide (data.extractLsb' 0 4 ≠ 0#4)

/-- `PROT5.WR data` (rule R266). -/
def execProt5Wr (data : Word) (s : State) : Host.Outcome State Fault Refusal :=
  match s.params.chip with
  | some (.serial buffer orMask) =>
    let t := { s with serialStatus := serialClock data }
    .next (setOut
      (if serialClock data then t
      else if serialEcho data then { t with p5Latch := orMask ||| lowByte data }
      else { t with p5Latch := buffer[s.p5Cursor], p5Cursor := s.p5Cursor + 1 }) none)
  | _ => .refused .chipNotFitted

/-- `PROT5.RD` (rule R267): the latch, and the status bit is set. -/
def execProt5Rd (s : State) : Host.Outcome State Fault Refusal :=
  match s.params.chip with
  | some (.serial ..) => .next (answer { s with serialStatus := true } (s.p5Latch.setWidth 16))
  | _ => .refused .chipNotFitted

/-- `PROT5.STATUS` (rule R268): bit 0 of the result. -/
def execProt5Status (s : State) : Host.Outcome State Fault Refusal :=
  match s.params.chip with
  | some (.serial ..) => .next (answer s ((BitVec.ofBool s.serialStatus).setWidth 16))
  | _ => .refused .chipNotFitted

end Sys2Proof.Machine
end

