-- ==== Sys2Proof/Machine/Cmos.lean ====
section
/-! DEFINITION. The meanings of the CMOS controller's operations (44_cmos.md) and of the attach
(70_reset_and_hazards.md rule R300). -/

namespace Sys2Proof.Machine

/-- `CMOS.RD off` (rule R230): reads are never gated. -/
def execCmosRd (off : Nat) (s : State) : Host.Outcome State Fault Refusal :=
  .next (answer s (s.cmos.read (cmosAddress s off)))

/-- `CMOS.WR off, data, mask` (rules R231, R232): the permission is consumed either way. -/
def execCmosWr (off : Nat) (data : Word) (mask : ByteMask) (s : State) :
    Host.Outcome State Fault Refusal :=
  let a := cmosAddress s off
  .next (setOut { s with
    cmos := if cmosWriteAllowed s then s.cmos.write a (merge16 (s.cmos.read a) data mask) else s.cmos
    cmosWe := false } none)

/-- `CMOS.EN` (rule R233): the permission is a flag, not a counter; on the Y board the same write feeds
protection chip 4 (rule R257, decision D43). -/
def execCmosEn (data : Word) (s : State) : Host.Outcome State Fault Refusal :=
  .next (setOut (enableWrite data s) none)

/-- `CMOS.LOAD` (rule R235). -/
def execCmosLoad (blob : Blob) (s : State) : Host.Outcome State Fault Refusal :=
  .next (setOut { s with cmos := loadCmos s.params blob } none)

/-- `CMOS.SAVE` (rule R236): the whole store is handed out; no state changes. A detach is this operation,
and then `destroyContext` (rule R302). -/
def execCmosSave (s : State) : Host.Outcome State Fault Refusal :=
  .next (setOut s (some (.blob (saveCmos s.params s.cmos))))

/-- `RESET` (rule R300): every element takes its reset value, the parameters are bound, the CMOS store is
loaded. The calls the agents have yet to make are not state of the board and stay. -/
def execReset (p : Params) (blob : Blob) (s : State) : Host.Outcome State Fault Refusal :=
  if p.wf then .next { attached p with cmos := loadCmos p blob, pending := s.pending }
  else .refused .badParameters

end Sys2Proof.Machine
end

