-- ==== Sys2Proof/Machine/Dma.lean ====
section
/-! DEFINITION. The meanings of the DMA port and of the completion event (40_dma_registers.md,
41_command.md). -/

namespace Sys2Proof.Machine

/-- `DMA.WR off, data, mask` (rules R110, R111): merge into the addressed register; a write to `COMMAND`
then runs `CommandWritten()` on the merged word, even with an empty mask. -/
def execDmaWr (off : Nat) (data : Word) (mask : ByteMask) (s : State) :
    Host.Outcome State Fault Refusal :=
  let r := registerAt s.params.regMap off
  let v := merge16 (readReg s r) data mask
  .next (setOut (if r = commandReg then commandWritten v s else writeReg s r v) none)

/-- `DMA.RD off` (rule R112): the register, and no other effect; it does not clear `irq`. -/
def execDmaRd (off : Nat) (s : State) : Host.Outcome State Fault Refusal :=
  .next (answer s (readReg s (registerAt s.params.regMap off)))

/-- `DMA.STOP` (rules R120, R126): bits 14:0 are stored, `irq` drops, in-flight completions stay. -/
def execDmaStop (r : BitVec 15) (s : State) : Host.Outcome State Fault Refusal :=
  .next (setOut (latchCommand (stopWord r) s) none)

/-- `DMA.DONE` (rule R130): the completion timer's event, issued in timer mode while a completion is in flight
(rules R64, R291). In fast mode `Done()` runs inside the `COMMAND` write alone (rule R128), so the line is
raised once per go command in either mode (rule R282). A call while the event is not enabled changes
nothing (log 9). -/
def execDmaDone (s : State) : Host.Outcome State Fault Refusal :=
  .next (setOut (if completionEnabled s then done s else s) none)

end Sys2Proof.Machine
end

