-- ==== Sys2Proof/Machine/Video.lean ====
section
/-! DEFINITION. The meanings of the control, video-memory, palette, compositor and shift-register
operations (43_video_memory.md). -/

namespace Sys2Proof.Machine

/-- A stored cell as the host's logical value: through `REV_LOOKUP` on Y/Z (rules R205 to R207). -/
def logicalCell (p : Params) (cell : Word) : Word := if isYZ p then reverseLookup p cell else cell

/-- A logical value as a stored cell: through `FWD_LOOKUP` on Y/Z (rules R205, R206). -/
def storedCell (p : Params) (v : Word) : Word := if isYZ p then forwardLookup p v else v

/-- One byte of a host write into a cell (rules R201, R206): in the pixel bank the pixel with the palette
byte attached, in the palette bank the palette byte over the pixel the cell keeps. -/
def hostCell (p : Params) (bank : Bool) (cell : Word) (palByte b : Byte) : Word :=
  storedCell p (if bank then pairBytes palByte b else pairBytes b (lowByte (logicalCell p cell)))

/-- One byte lane of a host write to video memory (rules R201, R206). -/
def pokeCell (s : State) (enabled : Bool) (k : Nat) (palByte b : Byte) (vram : Memory) : Memory :=
  if enabled then vram.write k (hostCell s.params s.bankSelect (vram.read k) palByte b) else vram

/-- The host's byte of a cell: the half the bank select chooses (rules R203, R207). -/
def peekCell (s : State) (k : Nat) : Byte :=
  let v := logicalCell s.params (s.vram.read k)
  if s.bankSelect then lowByte v else highByte v

/-- `exp5(c)` (rule R208): 5 bits to 8. -/
def exp5 (c : BitVec 5) : Byte := (c.setWidth 8 <<< 3) ||| (c.setWidth 8 >>> 2)

/-- `PartialUpdate(e)` (rule R211): live rows of the lines not copied yet, up to `e`, into the shadow
buffer. -/
def partialUpdate (e : Nat) (s : State) : State :=
  { s with
    shadow := (linesFromTo s.nextLine e).foldl
      (fun m line => copyRow s.params s.vram (lineRowOf s.params line) m (lineRowOf s.params line)) s.shadow
    nextLine := if s.nextLine ≤ e then e + 1 else s.nextLine }

/-- `AutoErase(e, pageflip)` (rules R214, R215): erase the lines not erased yet, or in page-flip mode
record them. -/
def autoErase (e : Nat) (pageflip : Bool) (s : State) : State :=
  { s with
    vram := if s.autoeraseEn && !pageflip then
        (linesFromTo s.eraseNext e).foldl (eraseLine s.params) s.vram
      else s.vram
    eraseDeferred := if s.autoeraseEn && pageflip then
        (linesFromTo s.eraseNext e).foldl (fun set line => insertLine line set) s.eraseDeferred
      else s.eraseDeferred
    eraseNext := if s.eraseNext ≤ e then e + 1 else s.eraseNext }

/-- The compositor's body for the clamped line `e` (rule R210). -/
def composeTo (e : Nat) (pageflip : Bool) (s : State) : State :=
  autoErase e pageflip (partialUpdate e s)

/-- The end-of-frame flush (rule R218): the deferred lines are erased whatever the mode now is. -/
def endFrame (pageflip : Bool) (s : State) : State :=
  let t := composeTo s.params.visibleLast pageflip s
  { t with
    vram := t.eraseDeferred.foldl (eraseLine t.params) t.vram
    eraseDeferred := []
    nextLine := t.params.visibleFirst
    eraseNext := t.params.visibleFirst }

/-- `CTRL.WR data, mask` (rule R200). -/
def execCtrlWr (data : Word) (mask : ByteMask) (s : State) : Host.Outcome State Fault Refusal :=
  .next (setOut (writeControl s (merge16 s.ctrl data mask)) none)

/-- `VRAM.WR off, data, mask` (T/Wolf rule R201, Y/Z rule R206): bits 7:0 to the even cell with the
palette register's low byte, bits 15:8 to the odd cell with its high byte. -/
def execVramWr (off : Nat) (data : Word) (mask : ByteMask) (s : State) :
    Host.Outcome State Fault Refusal :=
  let pal := readReg s paletteReg
  .next (setOut { s with
    vram := pokeCell s mask.hi (oddCell s.params off) (highByte pal) (highByte data)
      (pokeCell s mask.lo (evenCell s.params off) (lowByte pal) (lowByte data) s.vram) } none)

/-- `VRAM.RD off` (T/Wolf rule R203, Y/Z rule R207); it reads live video memory. -/
def execVramRd (off : Nat) (s : State) : Host.Outcome State Fault Refusal :=
  .next (answer s (pairBytes (peekCell s (oddCell s.params off)) (peekCell s (evenCell s.params off))))

/-- `PAL.WR off, data` (rule R208): the mirror keeps the word, the collaborator gets the colour. -/
def execPalWr (off : Nat) (data : Word) (s : State) : Host.Outcome State Fault Refusal :=
  .next (setOut { s with palram := s.palram.write (paletteEntry s.params off) data }
    (some (.colour off (exp5 (data.extractLsb' 10 5)) (exp5 (data.extractLsb' 5 5))
      (exp5 (data.extractLsb' 0 5)))))

/-- `VID.LINE s` (rules R210, R216, R217); on T and Wolf no state of the block changes (rule R219). -/
def execVidLine (line : Int) (pageflip : Bool) (s : State) : Host.Outcome State Fault Refusal :=
  .next (setOut (if isYZ s.params then composeTo (clampLine s.params line) pageflip s else s) none)

/-- `VID.EOF` (rule R218); on T and Wolf no state of the block changes (rule R219). -/
def execVidEof (pageflip : Bool) (s : State) : Host.Outcome State Fault Refusal :=
  .next (setOut (if isYZ s.params then endFrame pageflip s else s) none)

/-- `SR.TOHOST addr` (rule R224): 1024 cells to the host's buffer. -/
def execSrToHost (addr : Nat) (s : State) : Host.Outcome State Fault Refusal :=
  .next (setOut s (some (.buffer ((List.range 1024).map fun i =>
    s.vram.read ((shiftCell s.params addr + i) % s.params.vramCells)))))

/-- `SR.FROMHOST addr` (rule R225): the host's buffer over 1024 cells, whole cells. -/
def execSrFromHost (addr : Nat) (buffer : ShiftBuffer) (s : State) : Host.Outcome State Fault Refusal :=
  .next (setOut { s with
    vram := Memory.writeWrapped s.params.vramCells s.vram (shiftCell s.params addr) buffer.toList } none)

end Sys2Proof.Machine
end

