-- ==== Sys2Proof/Machine/Dispatch.lean ====
section
/-! DEFINITION. The dispatch: one arm for each operation, one direct call of its meaning. -/

namespace Sys2Proof.Machine

def exec (i : Instr) (s : State) : Host.Outcome State Fault Refusal :=
  match i with
  | .dmaWr off data mask => Sys2Proof.Machine.execDmaWr off data mask s
  | .dmaRd off => Sys2Proof.Machine.execDmaRd off s
  | .dmaStop r => Sys2Proof.Machine.execDmaStop r s
  | .blt00 f => Sys2Proof.Machine.execBlt00 f s
  | .blt01 f => Sys2Proof.Machine.execBlt01 f s
  | .blt02 f => Sys2Proof.Machine.execBlt02 f s
  | .blt03 f => Sys2Proof.Machine.execBlt03 f s
  | .blt04 f => Sys2Proof.Machine.execBlt04 f s
  | .blt05 f => Sys2Proof.Machine.execBlt05 f s
  | .blt06 f => Sys2Proof.Machine.execBlt06 f s
  | .blt07 f => Sys2Proof.Machine.execBlt07 f s
  | .blt08 f => Sys2Proof.Machine.execBlt08 f s
  | .blt09 f => Sys2Proof.Machine.execBlt09 f s
  | .blt0A f => Sys2Proof.Machine.execBlt0A f s
  | .blt0B f => Sys2Proof.Machine.execBlt0B f s
  | .blt0C f => Sys2Proof.Machine.execBlt0C f s
  | .blt0D f => Sys2Proof.Machine.execBlt0D f s
  | .blt0E f => Sys2Proof.Machine.execBlt0E f s
  | .blt0F f => Sys2Proof.Machine.execBlt0F f s
  | .blt10 f => Sys2Proof.Machine.execBlt10 f s
  | .blt11 f => Sys2Proof.Machine.execBlt11 f s
  | .blt12 f => Sys2Proof.Machine.execBlt12 f s
  | .blt13 f => Sys2Proof.Machine.execBlt13 f s
  | .blt14 f => Sys2Proof.Machine.execBlt14 f s
  | .blt15 f => Sys2Proof.Machine.execBlt15 f s
  | .blt16 f => Sys2Proof.Machine.execBlt16 f s
  | .blt17 f => Sys2Proof.Machine.execBlt17 f s
  | .blt18 f => Sys2Proof.Machine.execBlt18 f s
  | .blt19 f => Sys2Proof.Machine.execBlt19 f s
  | .blt1A f => Sys2Proof.Machine.execBlt1A f s
  | .blt1B f => Sys2Proof.Machine.execBlt1B f s
  | .blt1C f => Sys2Proof.Machine.execBlt1C f s
  | .blt1D f => Sys2Proof.Machine.execBlt1D f s
  | .blt1E f => Sys2Proof.Machine.execBlt1E f s
  | .blt1F f => Sys2Proof.Machine.execBlt1F f s
  | .dmaDone => Sys2Proof.Machine.execDmaDone s
  | .ctrlWr data mask => Sys2Proof.Machine.execCtrlWr data mask s
  | .vramWr off data mask => Sys2Proof.Machine.execVramWr off data mask s
  | .vramRd off => Sys2Proof.Machine.execVramRd off s
  | .palWr off data => Sys2Proof.Machine.execPalWr off data s
  | .vidLine line pageflip => Sys2Proof.Machine.execVidLine line pageflip s
  | .vidEof pageflip => Sys2Proof.Machine.execVidEof pageflip s
  | .srToHost addr => Sys2Proof.Machine.execSrToHost addr s
  | .srFromHost addr buffer => Sys2Proof.Machine.execSrFromHost addr buffer s
  | .cmosRd off => Sys2Proof.Machine.execCmosRd off s
  | .cmosWr off data mask => Sys2Proof.Machine.execCmosWr off data mask s
  | .cmosEn data => Sys2Proof.Machine.execCmosEn data s
  | .cmosLoad blob => Sys2Proof.Machine.execCmosLoad blob s
  | .cmosSave => Sys2Proof.Machine.execCmosSave s
  | .prot1Rd => Sys2Proof.Machine.execProt1Rd s
  | .prot1Wr data mask => Sys2Proof.Machine.execProt1Wr data mask s
  | .prot2Rd => Sys2Proof.Machine.execProt2Rd s
  | .prot2RdSh => Sys2Proof.Machine.execProt2RdSh s
  | .prot2RdC => Sys2Proof.Machine.execProt2RdC s
  | .prot2Wr data mask => Sys2Proof.Machine.execProt2Wr data mask s
  | .prot3Rd => Sys2Proof.Machine.execProt3Rd s
  | .prot3Wr off data => Sys2Proof.Machine.execProt3Wr off data s
  | .prot4Wr data => Sys2Proof.Machine.execProt4Wr data s
  | .prot4Rd => Sys2Proof.Machine.execProt4Rd s
  | .prot5Wr data => Sys2Proof.Machine.execProt5Wr data s
  | .prot5Rd => Sys2Proof.Machine.execProt5Rd s
  | .prot5Status => Sys2Proof.Machine.execProt5Status s
  | .reset p blob => Sys2Proof.Machine.execReset p blob s

end Sys2Proof.Machine
end

