-- ==== Sys2Proof/Machine/Step.lean ====
section
/-! DEFINITION. One step: the next inbound call is decoded and carried out, atomically (20_memory.md rules
R56, R63). -/

namespace Sys2Proof.Machine

/-- The call just carried out is concluded and leaves the list; a refusal stops the run. -/
def finish (call : Call) : Host.Outcome State Fault Refusal → Host.Outcome State Fault Refusal
  | .next t => .next (retire (conclude call t))
  | .fault r => .fault r
  | .refused r => .refused r

/-- One step (log 1). With no call waiting the block does nothing: it runs nothing by itself (rule R61,
R300). -/
def step (s : State) : Host.Outcome State Fault Refusal :=
  match fetch s with
  | none => .next s
  | some call =>
    match decode s.context call with
    | .error reason => .refused (.undecodable reason)
    | .ok i => finish call (exec i s)

/-- `s` with the host's whole-word write of a command word next in the list of calls (log 1): only the
command word has bits (rule R80). -/
def State.withFetchWord (s : State) (nbits w : Nat) : State :=
  { s with pending := commandCall s.context (BitVec.ofNat 16 (w % 2 ^ nbits)) :: s.pending }

end Sys2Proof.Machine
end

