-- ==== Sys2Proof/Safety.lean ====
section
/-! DEFINITION. What a good state of the block is: the bounds and links the spec states between its
pieces of state, which every step keeps. -/

namespace Sys2Proof.Machine

/-- A store in its canonical form, inside `n` cells (rules R50, R59). -/
abbrev Memory.good (m : Memory) (n : Nat) : Prop := m.wf = true ∧ m.below n = true

/-- The largest value of `p1_cursor`: `MK1_LEN` where chip 1 is fitted, else its reset value (rule R23). -/
def p1Bound (p : Params) : Nat :=
  match p.chip with
  | some (.mk1 table _) => table.length
  | _ => 0

/-- The largest value of `p4_cursor`: `Y_DATA_LEN - 1` where chip 4 is fitted, else its reset value
(rule R26). -/
def p4Bound (p : Params) : Nat :=
  match p.chip with
  | some (.yUnit _ dataSeq ..) => dataSeq.length - 1
  | _ => 0

/-- A line counter of the compositor: between the first visible line and one past the last (rule R20). -/
abbrev lineCounter (p : Params) (n : Nat) : Prop := p.visibleFirst ≤ n ∧ n ≤ p.visibleLast + 1

/-- A good board context. -/
structure State.Inv (s : State) : Prop where
  /-- The bound parameters are such as the spec allows (log 7). -/
  params_wf : s.params.wf = true
  /-- "never writes outside video-memory bounds" (rule R59). -/
  vram_good : s.vram.good s.params.vramCells
  shadow_good : s.shadow.good s.params.vramCells
  palram_good : s.palram.good s.params.palEntries
  cmos_good : s.cmos.good (cmosWords s.params)
  /-- The fields decoded from `ctrl` (rule R18). -/
  bank_decoded : s.bankSelect = bankOf s.params s.ctrl
  autoerase_decoded : s.autoeraseEn = autoeraseOf s.ctrl
  page_decoded : s.cmosPage = if isYZ s.params then pageOf s.params s.ctrl else 0
  /-- A command that is busy has a completion in flight (rules R13, R129). -/
  busy_pending : s.live = true → busy s = true → 0 < s.timers
  /-- A destroyed context has no completion in flight (rule R302). -/
  destroyed_settled : s.live = false → s.timers = 0
  /-- In fast mode no completion is ever in flight (rule R128). -/
  fast_settled : s.params.fastDma = true → s.timers = 0
  /-- The shadow buffer exists on Y and Z only (rules R20, R219). -/
  shadow_absent : isYZ s.params = false → s.shadow = []
  next_line : lineCounter s.params s.nextLine
  erase_next : lineCounter s.params s.eraseNext
  /-- The deferred lines are a set of visible lines already passed (rules R20, R215). -/
  deferred_sorted : s.eraseDeferred.Pairwise (· < ·)
  deferred_passed : ∀ line ∈ s.eraseDeferred, s.params.visibleFirst ≤ line ∧ line < s.eraseNext
  /-- The protection cursors stay in their tables (rules R23, R26). -/
  p1_cursor : s.p1Cursor ≤ p1Bound s.params
  p4_cursor : s.p4Cursor ≤ p4Bound s.params
  /-- Only bits 11:8 of the FIFO entries are ever nonzero (rules R26, R258). -/
  p4_masked : ∀ v ∈ s.p4Fifo.toList, v &&& 0x0F00#16 = v

/-! ### The vocabulary of the statements -/

/-- The operations carried out one after the other (rule R63). -/
def runOps : List Instr → State → Host.Outcome State Fault Refusal
  | [], s => .next s
  | i :: is, s =>
    match exec i s with
    | .next t => runOps is t
    | .fault r => .fault r
    | .refused r => .refused r

/-- The board offers the operation: a chip's operations where that chip is fitted (U19), an attach with
parameters the spec allows, and every other operation always (rule R5). -/
def offered (s : State) : Instr → Bool
  | .prot1Rd | .prot1Wr _ _ => chipIs s.context 1
  | .prot2Rd | .prot2RdSh | .prot2RdC | .prot2Wr _ _ => chipIs s.context 2
  | .prot3Rd | .prot3Wr _ _ => chipIs s.context 3
  | .prot4Wr _ | .prot4Rd => chipIs s.context 4
  | .prot5Wr _ | .prot5Rd | .prot5Status => chipIs s.context 5
  | .reset p _ => p.wf
  | .dmaWr _ _ _ | .dmaRd _ | .dmaStop _ => true
  | .blt00 _ | .blt01 _ | .blt02 _ | .blt03 _ | .blt04 _ | .blt05 _ | .blt06 _ | .blt07 _
  | .blt08 _ | .blt09 _ | .blt0A _ | .blt0B _ | .blt0C _ | .blt0D _ | .blt0E _ | .blt0F _
  | .blt10 _ | .blt11 _ | .blt12 _ | .blt13 _ | .blt14 _ | .blt15 _ | .blt16 _ | .blt17 _
  | .blt18 _ | .blt19 _ | .blt1A _ | .blt1B _ | .blt1C _ | .blt1D _ | .blt1E _ | .blt1F _ => true
  | .dmaDone | .ctrlWr _ _ | .vramWr _ _ _ | .vramRd _ | .palWr _ _ | .vidLine _ _ | .vidEof _
  | .srToHost _ | .srFromHost _ _ | .cmosRd _ | .cmosWr _ _ _ | .cmosEn _ | .cmosLoad _ | .cmosSave => true

/-- The operation writes `COMMAND`: `DMA.STOP`, every `BLT.mm`, and a `DMA.WR` whose offset names it. -/
def writesCommand (s : State) : Instr → Bool
  | .dmaWr off _ _ => decide (registerAt s.params.regMap off = commandReg)
  | .dmaStop _ => true
  | .blt00 _ | .blt01 _ | .blt02 _ | .blt03 _ | .blt04 _ | .blt05 _ | .blt06 _ | .blt07 _
  | .blt08 _ | .blt09 _ | .blt0A _ | .blt0B _ | .blt0C _ | .blt0D _ | .blt0E _ | .blt0F _
  | .blt10 _ | .blt11 _ | .blt12 _ | .blt13 _ | .blt14 _ | .blt15 _ | .blt16 _ | .blt17 _
  | .blt18 _ | .blt19 _ | .blt1A _ | .blt1B _ | .blt1C _ | .blt1D _ | .blt1E _ | .blt1F _ => true
  | .dmaRd _ | .dmaDone | .ctrlWr _ _ | .vramWr _ _ _ | .vramRd _ | .palWr _ _ | .vidLine _ _
  | .vidEof _ | .srToHost _ | .srFromHost _ _ | .cmosRd _ | .cmosWr _ _ _ | .cmosEn _ | .cmosLoad _
  | .cmosSave | .prot1Rd | .prot1Wr _ _ | .prot2Rd | .prot2RdSh | .prot2RdC | .prot2Wr _ _ | .prot3Rd
  | .prot3Wr _ _ | .prot4Wr _ | .prot4Rd | .prot5Wr _ | .prot5Rd | .prot5Status | .reset _ _ => false

/-- A protection-chip operation (45_protection.md). -/
def isProtection : Instr → Bool
  | .prot1Rd | .prot1Wr _ _ | .prot2Rd | .prot2RdSh | .prot2RdC | .prot2Wr _ _ | .prot3Rd
  | .prot3Wr _ _ | .prot4Wr _ | .prot4Rd | .prot5Wr _ | .prot5Rd | .prot5Status => true
  | .dmaWr _ _ _ | .dmaRd _ | .dmaStop _ => false
  | .blt00 _ | .blt01 _ | .blt02 _ | .blt03 _ | .blt04 _ | .blt05 _ | .blt06 _ | .blt07 _
  | .blt08 _ | .blt09 _ | .blt0A _ | .blt0B _ | .blt0C _ | .blt0D _ | .blt0E _ | .blt0F _
  | .blt10 _ | .blt11 _ | .blt12 _ | .blt13 _ | .blt14 _ | .blt15 _ | .blt16 _ | .blt17 _
  | .blt18 _ | .blt19 _ | .blt1A _ | .blt1B _ | .blt1C _ | .blt1D _ | .blt1E _ | .blt1F _ => false
  | .dmaDone | .ctrlWr _ _ | .vramWr _ _ _ | .vramRd _ | .palWr _ _ | .vidLine _ _ | .vidEof _
  | .srToHost _ | .srFromHost _ _ | .cmosRd _ | .cmosWr _ _ _ | .cmosEn _ | .cmosLoad _ | .cmosSave
  | .reset _ _ => false

/-- The accesses, but for register writes and protection accesses, whose operation has no mask operand
(rule R81). -/
def portOperations (off : Nat) (data : Word) : List (Port × Dir × Instr) := [
  (.register, .R, .dmaRd off), (.vram, .R, .vramRd off), (.cmos, .R, .cmosRd off),
  (.palette, .W, .palWr off data), (.cmosEnable, .W, .cmosEn data)]

/-- Those whose operation has one (rule R81). -/
def maskedPortOperations (off : Nat) (data : Word) (mask : ByteMask) : List (Port × Dir × Instr) := [
  (.control, .W, .ctrlWr data mask), (.vram, .W, .vramWr off data mask), (.cmos, .W, .cmosWr off data mask)]

/-- The protection accesses whose operation has no mask operand, each with its chip (rule R81). -/
def chipOperations (off : Nat) (data : Word) : List (Nat × ProtSub × Dir × Instr) := [
  (1, .plain, .R, .prot1Rd),
  (2, .latch, .R, .prot2Rd), (2, .shifted, .R, .prot2RdSh), (2, .constant, .R, .prot2RdC),
  (3, .plain, .R, .prot3Rd), (3, .plain, .W, .prot3Wr off data),
  (4, .plain, .R, .prot4Rd), (4, .enable, .W, .prot4Wr data),
  (5, .plain, .R, .prot5Rd), (5, .status, .R, .prot5Status), (5, .plain, .W, .prot5Wr data)]

/-- Those whose operation has one (rule R81). -/
def maskedChipOperations (data : Word) (mask : ByteMask) : List (Nat × ProtSub × Dir × Instr) := [
  (1, .plain, .W, .prot1Wr data mask), (2, .plain, .W, .prot2Wr data mask)]

/-- Chip number `chip` has an access at that sub-address and in that direction (rule R81). -/
def chipAccess (chip : Nat) (sub : ProtSub) (dir : Dir) : Bool :=
  (chipOperations 0 0#16 ++ maskedChipOperations 0#16 ⟨true, true⟩).any fun x =>
    decide (x.1 = chip ∧ x.2.1 = sub ∧ x.2.2.1 = dir)

/-- An attach, which begins a new board context. -/
def isAttach (i : Instr) : Prop := ∃ p blob, i = .reset p blob

/-- The 32-mode matrix of rule R87, row by row as spec/opcode_table.json has it: the operation, its mode
bits, its two policies and its x direction. -/
def modeRows (f : BltFields) : List (Instr × BitVec 5 × Variant) := [
  (.blt00 f, 0x00#5, ⟨.none, .none, false⟩),
  (.blt01 f, 0x01#5, ⟨.copy, .none, false⟩),
  (.blt02 f, 0x02#5, ⟨.none, .copy, false⟩),
  (.blt03 f, 0x03#5, ⟨.copy, .copy, false⟩),
  (.blt04 f, 0x04#5, ⟨.color, .none, false⟩),
  (.blt05 f, 0x05#5, ⟨.color, .none, false⟩),
  (.blt06 f, 0x06#5, ⟨.color, .copy, false⟩),
  (.blt07 f, 0x07#5, ⟨.color, .copy, false⟩),
  (.blt08 f, 0x08#5, ⟨.none, .color, false⟩),
  (.blt09 f, 0x09#5, ⟨.copy, .color, false⟩),
  (.blt0A f, 0x0A#5, ⟨.none, .color, false⟩),
  (.blt0B f, 0x0B#5, ⟨.copy, .color, false⟩),
  (.blt0C f, 0x0C#5, ⟨.color, .color, false⟩),
  (.blt0D f, 0x0D#5, ⟨.color, .color, false⟩),
  (.blt0E f, 0x0E#5, ⟨.color, .color, false⟩),
  (.blt0F f, 0x0F#5, ⟨.color, .color, false⟩),
  (.blt10 f, 0x10#5, ⟨.none, .none, true⟩),
  (.blt11 f, 0x11#5, ⟨.copy, .none, true⟩),
  (.blt12 f, 0x12#5, ⟨.none, .copy, true⟩),
  (.blt13 f, 0x13#5, ⟨.copy, .copy, true⟩),
  (.blt14 f, 0x14#5, ⟨.color, .none, true⟩),
  (.blt15 f, 0x15#5, ⟨.color, .none, true⟩),
  (.blt16 f, 0x16#5, ⟨.color, .copy, true⟩),
  (.blt17 f, 0x17#5, ⟨.color, .copy, true⟩),
  (.blt18 f, 0x18#5, ⟨.none, .color, true⟩),
  (.blt19 f, 0x19#5, ⟨.copy, .color, true⟩),
  (.blt1A f, 0x1A#5, ⟨.none, .color, true⟩),
  (.blt1B f, 0x1B#5, ⟨.copy, .color, true⟩),
  (.blt1C f, 0x1C#5, ⟨.color, .color, true⟩),
  (.blt1D f, 0x1D#5, ⟨.color, .color, true⟩),
  (.blt1E f, 0x1E#5, ⟨.color, .color, true⟩),
  (.blt1F f, 0x1F#5, ⟨.color, .color, true⟩)]

/-- Cell `k` lies in the video-memory row of scanline `line` (rules R6, R211). -/
def inRowOf (p : Params) (line k : Nat) : Prop := ∃ c < vramStride, k = cellIndex p (lineRowOf p line) c

/-- The rows of the visible lines and the reference row lie inside video memory (rule R8: `vram[k]` has
`0 <= k < VRAM_CELLS`). -/
def rowsFit (p : Params) : Prop :=
  (∀ line, p.visibleFirst ≤ line → line ≤ p.visibleLast → (lineRowOf p line + 1) * 512 ≤ p.vramCells) ∧
    (p.autoeraseRow + 1) * 512 ≤ p.vramCells

/-- Two states agree on everything a protection operation works on. -/
def sameChip (s t : State) : Prop :=
  s.params = t.params ∧ s.p1Cursor = t.p1Cursor ∧ s.p2Latch = t.p2Latch ∧ s.p3Queue = t.p3Queue ∧
  s.p3Cursor = t.p3Cursor ∧ s.p4Fifo = t.p4Fifo ∧ s.p4Cursor = t.p4Cursor ∧ s.p4Result = t.p4Result ∧
  s.p5Cursor = t.p5Cursor ∧ s.p5Latch = t.p5Latch ∧ s.serialStatus = t.serialStatus

/-- The destination columns of a row without skip mode: `ceil(W / xstep)` (rule R147). -/
def drawnColumns (d : Descriptor) : Nat := (d.width * 256 + d.xstep - 1) / d.xstep

/-- The destination rows of a transfer: `ceil(H / ystep)` (rule R149). -/
def drawnRows (d : Descriptor) : Nat := (d.height * 256 + d.ystep - 1) / d.ystep

/-- A transfer whose destination rectangle passes no edge: its column and row numbers never wrap, and two
of its pixels never share a cell (rules R59, R148). -/
structure FlatRectangle (p : Params) (d : Descriptor) : Prop where
  masks : p.xposMask = 0x3FF#16 ∧ p.yposMask = 0x1FF#16
  store : 512 * 512 ≤ p.vramCells
  columns : if d.xflip then d.xpos.toNat < 512 ∧ drawnColumns d ≤ d.xpos.toNat + 1
    else d.xpos.toNat + drawnColumns d ≤ 512
  rows : if d.yflip then d.ypos.toNat < 512 ∧ drawnRows d ≤ d.ypos.toNat + 1
    else d.ypos.toNat + drawnRows d ≤ 512

/-- The destination column number `c` of a flat rectangle (rule R148). -/
def rectColumn (d : Descriptor) (c : Nat) : Nat := if d.xflip then d.xpos.toNat - c else d.xpos.toNat + c

/-- The destination row number `r` of a flat rectangle (rule R148). -/
def rectRow (d : Descriptor) (r : Nat) : Nat := if d.yflip then d.ypos.toNat - r else d.ypos.toNat + r

/-- The cell of row number `r` and column number `c` of a flat rectangle (rule R19). -/
def rectCell (d : Descriptor) (r c : Nat) : Nat := 512 * rectRow d r + rectColumn d c

/-- The clip rectangle lets the pixel through, where the row draws exactly the columns `drawn` (rules
R143, R144): in the drop variant one drawn column outside it hides the whole row. -/
def unclipped (d : Descriptor) (drawn : Nat → Prop) (r c : Nat) : Prop :=
  d.topclip ≤ rectRow d r ∧ rectRow d r ≤ d.botclip ∧
  d.leftclip ≤ rectColumn d c ∧ rectColumn d c ≤ d.rightclip ∧
  (d.clipdrop = true → ∀ c', drawn c' → d.leftclip ≤ rectColumn d c' ∧ rectColumn d c' ≤ d.rightclip)

/-- What a cell that held `old` holds once the source pixel `px` is drawn over it in a mode with the
policies of `v` (rules R86, R146). -/
def pixelCell (s : State) (v : Variant) (px old : Word) : Word :=
  match (if px = 0#16 then v.zero else v.nonzero) with
  | .none => old
  | .copy => px ||| (s.dma[6] &&& s.params.palMask)
  | .color => (s.dma[6] &&& s.params.palMask) ||| (s.dma[7] &&& 0x00FF#16)

/-- The pixels the control byte at `o` skips at the start of a row (rule R89). -/
def skippedBefore (p : Params) (d : Descriptor) (o : BitAddr) : Nat :=
  (romBits p o 8).toNat % 16 * 2 ^ d.preskipSh

/-- The pixels the control byte at `o` skips at the end of a row (rule R89). -/
def skippedAfter (p : Params) (d : Descriptor) (o : BitAddr) : Nat :=
  (romBits p o 8).toNat / 16 * 2 ^ d.postskipSh

/-- The first column number of the skip-mode row whose control byte is at `o`: `tx = (pre << 8) div xstep`
(rule R142). -/
def firstColumn (p : Params) (d : Descriptor) (o : BitAddr) : Nat := skippedBefore p d o * 256 / d.xstep

/-- The skip-mode row whose control byte is at `o` draws column number `c`: from the first column on, while
the source accumulator is left of the skipped end (rules R142, R147). -/
abbrev drawsColumn (p : Params) (d : Descriptor) (o : BitAddr) (c : Nat) : Prop :=
  firstColumn p d o ≤ c ∧ c * d.xstep < (d.width - skippedAfter p d o) * 256

/-- The bit address of the source pixel of column number `c` in that row: the stored pixels begin after
the control byte with the first column's (rules R89, R147). -/
def skipPixelAt (p : Params) (d : Descriptor) (o : BitAddr) (c : Nat) : BitAddr :=
  o + 8#32 + BitVec.ofNat 32 ((c * d.xstep / 256 - firstColumn p d o * d.xstep / 256) * d.bpp)

/-! A transfer's picture without any bound on its rectangle, as the list of its pixels in drawing order. -/

/-- Column number `n` of a row that begins at column `x`: each column is reduced by `XPOSMASK` in turn
(rule R148). -/
def columnFrom (p : Params) (d : Descriptor) (x : Word) : Nat → Word
  | 0 => x
  | n + 1 => (if d.xflip then columnFrom p d x n - 1#16 else columnFrom p d x n + 1#16) &&& p.xposMask

/-- Row number `n` of a transfer: each row is reduced by `YPOSMASK` in turn (rule R148). -/
def rowFrom (p : Params) (d : Descriptor) : Nat → Word
  | 0 => d.ypos
  | n + 1 => (if d.yflip then rowFrom p d n - 1#16 else rowFrom p d n + 1#16) &&& p.yposMask

/-- The column lies in the clip rectangle (rule R144). -/
abbrev inClipColumns (d : Descriptor) (col : Word) : Prop := d.leftclip ≤ col.toNat ∧ col.toNat ≤ d.rightclip

/-- The pixels drawn in destination row `row`, which visits `columns`, each with the bit address of its
source pixel: the cell (rules R19, R59) and that address. The clip rectangle hides rows and columns, and in
the drop variant the whole row of one hidden column (rules R143, R144). -/
def rowPixels (p : Params) (d : Descriptor) (row : Word) (columns : List (Word × BitAddr)) :
    List (Nat × BitAddr) :=
  if d.topclip ≤ row.toNat ∧ row.toNat ≤ d.botclip ∧
      (d.clipdrop = true → columns.all (fun x => inClipColumns d x.1) = true) then
    (columns.filter fun x => inClipColumns d x.1).map fun x =>
      ((512 * row.toNat + x.1.toNat) % p.vramCells, x.2)
  else []

/-- The pixels of a transfer without skip mode, in drawing order (rules R147, R149). -/
def rectPixels (p : Params) (d : Descriptor) : List (Nat × BitAddr) :=
  (List.range (drawnRows d)).flatMap fun r =>
    rowPixels p d (rowFrom p d r) ((List.range (drawnColumns d)).map fun c =>
      (columnFrom p d d.xpos c,
        d.offset + BitVec.ofNat 32 ((r * d.ystep / 256 * d.width + c * d.xstep / 256) * d.bpp)))

/-- Column number `c` of the skip-mode row whose control byte is at `o`: the row begins at its first column,
`tx` columns on from `XSTART` (rule R142). -/
def skipColumn (p : Params) (d : Descriptor) (o : BitAddr) (c : Nat) : Word :=
  let tx := firstColumn p d o
  columnFrom p d ((if d.xflip then d.xpos - BitVec.ofNat 16 tx else d.xpos + BitVec.ofNat 16 tx) &&& p.xposMask)
    (c - tx)

/-- The pixels of a transfer in skip mode, in drawing order, where destination row `r` has its control byte
at `row r` (rules R142, R147, R149). -/
def skipPixels (p : Params) (d : Descriptor) (row : Nat → BitAddr) : List (Nat × BitAddr) :=
  (List.range (drawnRows d)).flatMap fun r =>
    rowPixels p d (rowFrom p d r)
      (((List.range (drawnColumns d)).filter fun c => drawsColumn p d (row r) c).map fun c =>
        (skipColumn p d (row r) c, skipPixelAt p d (row r) c))

/-- What cell `k` holds, having held `old`, once pixels of `bpp` bits are drawn in that order: each pixel
drawn at `k` acts on what the one before it left (rule R146). -/
def pictureCell (s : State) (v : Variant) (bpp : Nat) (pixels : List (Nat × BitAddr)) (k : Nat) (old : Word) :
    Word :=
  pixels.foldl (fun w x => if x.1 = k then pixelCell s v (romBits s.params x.2 bpp) w else w) old

/-- Bytes `lo` and `hi` of a host word, where the mask enables them, over those of `old` (rule R51). -/
def MergesInto (old data : Word) (mask : ByteMask) (new : Word) : Prop :=
  ∀ b < 16, new.getLsbD b =
    if (if b < 8 then mask.lo else mask.hi) then data.getLsbD b else old.getLsbD b

/-- Scanline `line` is visible (rule R60). -/
def visibleLine (p : Params) (line : Nat) : Prop := p.visibleFirst ≤ line ∧ line ≤ p.visibleLast

end Sys2Proof.Machine
end

