-- ==== Sys2Proof/Certificates/Slice0/Obligations.lean ====
section
/-! DEFINITION. The statements for the provers. `out`, `pending` and the list of calls are the model's own
interface (log 1, log 2); every equation below also says what the operation hands out. -/

open Sys2Proof Sys2Proof.Machine

/-! ### Encoding -/

/-- The decoder inverts the encoder on every operation a context can carry (30_encoding.md R80 to R83). -/
def Obligations.DecodeEncodeAgree : Prop :=
  ∀ (c : Context) (i : Instr), i.wf c = true → decode c (encode c i) = .ok i

/-- A command word has one meaning and that meaning has one command word (R83: all 16 bits are used). -/
def Obligations.CommandWordsReencode : Prop :=
  ∀ (c : Context) (w : Word), encode c (decodeCommand w) = commandCall c w

/-- Where each field of the go command word stands (R83; positions are decision D2 of the spec). -/
def Obligations.CommandFieldPlaces : Prop :=
  ∀ (m : BitVec 5) (f : BltFields),
    (bltWord m f).toNat = 32768 + 4096 * f.bpp.toNat + 1024 * f.postSh.toNat + 256 * f.preSh.toNat +
      128 * f.skipEn.toNat + 64 * f.clipDrop.toNat + 32 * f.yflip.toNat + m.toNat

/-- Words written out from rule R83's layout, and calls from rule R81's list, decode to their operations. -/
def Obligations.SpecWordsDecode : Prop :=
  decodeCommand 0x8000#16 = .blt00 ⟨0, 0, 0, false, false, false⟩ ∧
  decodeCommand 0x8006#16 = .blt06 ⟨0, 0, 0, false, false, false⟩ ∧
  decodeCommand 0xC023#16 = .blt03 ⟨4, 0, 0, false, false, true⟩ ∧
  decodeCommand 0xED9F#16 = .blt1F ⟨6, 3, 1, true, false, false⟩ ∧
  decodeCommand 0x7FFF#16 = .dmaStop 0x7FFF#15 ∧
  decode tableContext (.port .register .W 0x14 0xABCD#16 0x00FF#16) = .ok (.dmaWr 0x14 0xABCD#16 ⟨true, false⟩) ∧
  decode tableContext (.port .register .R 14 0#16 0xFFFF#16) = .ok (.dmaRd 14) ∧
  decode tableContext (.port .register .W 14 0x8006#16 0xFFFF#16) =
    .ok (.blt06 ⟨0, 0, 0, false, false, false⟩) ∧
  decode { tableContext with command := 0x8003#16 } (.port .register .W 14 0x0012#16 0x00FF#16) =
    .ok (.blt12 ⟨0, 0, 0, false, false, false⟩) ∧
  decode tableContext (.event (.displayInterrupt (-1) false)) = .ok (.vidLine (-1) false) ∧
  decode { tableContext with chip := some .mk2 } (.port (.protection .shifted) .R 0 0#16 0xFFFF#16) =
    .ok .prot2RdSh

/-- The operation of every host access on a live board, at every offset and for every data word (R81). A
register write is `DMA.WR`, or where it reaches `COMMAND` the operation of the merged word (R82, R83); the
rest are the rows of the four lists, a protection access where its chip is fitted. A read ignores its mask
(R51), `PAL.WR` has none (R208); that `CMOS.EN` and the writes of chips 3, 4 and 5 ignore theirs is the
model's choice (log 20). Rejected are, by the model's choice (log 3), an illegal mask where the operation
has a mask operand and a read of the control, palette or enable port, which no rule lists; and a protection
access the fitted chip does not have (U19; log 10). What decodes is an operation the context carries. -/
def Obligations.HostAccessesDecode : Prop :=
  ∀ (c : Context) (off : Nat) (data anyMask : Word) (mask : ByteMask), c.live = true →
    (registerAt c.regMap off ≠ 14 →
      decode c (.port .register .W off data mask.bits) = .ok (.dmaWr off data mask)) ∧
    (registerAt c.regMap off = 14 → ∃ w, MergesInto c.command data mask w ∧
      decode c (.port .register .W off data mask.bits) = .ok (decodeCommand w)) ∧
    (∀ port dir i, (port, dir, i) ∈ portOperations off data →
      decode c (.port port dir off data anyMask) = .ok i) ∧
    (∀ port dir i, (port, dir, i) ∈ maskedPortOperations off data mask →
      decode c (.port port dir off data mask.bits) = .ok i) ∧
    (∀ chip sub dir i, (chip, sub, dir, i) ∈ chipOperations off data → chipIs c chip = true →
      decode c (.port (.protection sub) dir off data anyMask) = .ok i) ∧
    (∀ chip sub dir i, (chip, sub, dir, i) ∈ maskedChipOperations data mask → chipIs c chip = true →
      decode c (.port (.protection sub) dir off data mask.bits) = .ok i) ∧
    (anyMask ∉ [0xFFFF#16, 0x00FF#16, 0xFF00#16, 0x0000#16] →
      (∀ port ∈ [Port.register, .control, .vram, .cmos],
        decode c (.port port .W off data anyMask) = .error .badMask) ∧
      (chipIs c 1 = true ∨ chipIs c 2 = true →
        decode c (.port (.protection .plain) .W off data anyMask) = .error .badMask)) ∧
    (∀ port ∈ [Port.control, .palette, .cmosEnable],
      decode c (.port port .R off data anyMask) = .error .noSuchAccess) ∧
    (∀ sub dir, (∀ chip, chipAccess chip sub dir = true → chipIs c chip = false) →
      decode c (.port (.protection sub) dir off data anyMask) = .error .noSuchProtection) ∧
    (∀ call i, decode c call = .ok i → i.wf c = true)

/-! ### The step -/

/-- A step carries out the operation its next call decodes to, then takes the call off the list (R56, R63;
log 1); a detach is the operation `CMOS.SAVE`, after which the context is destroyed (R302; log 17). With no
call it changes nothing (log 1). The refusals are the model's choice: of a call that is no operation
(log 3), and of every call but an attach where there is no context (log 17). -/
def Obligations.StepRunsDecodedOperation : Prop :=
  ∀ s : State,
    (s.pending = [] → step s = .next s) ∧
    ∀ (call : Call) (rest : List Call), s.pending = call :: rest →
      (∀ reason, decode s.context call = .error reason → step s = .refused (.undecodable reason)) ∧
      (s.live = false → (∀ p blob, call ≠ .event (.attach p blob)) →
        step s = .refused (.undecodable .noContext)) ∧
      ∀ i, decode s.context call = .ok i →
        (∀ t, exec i s = .next t → call ≠ .event .detach → step s = .next { t with pending := rest }) ∧
        (∀ t, exec i s = .next t → call = .event .detach →
          step s = .next { t with live := false, timers := 0, pending := rest }) ∧
        (∀ r, exec i s = .refused r → step s = .refused r)

/-- A command word placed as the next host write to a live board is carried out by the very next step
(R82, R83; log 1). -/
def Obligations.PlacedCommandWordRuns : Prop :=
  ∀ (s t : State) (w : Word), s.live = true → commandReachable s.context = true →
    exec (decodeCommand w) s = .next t → step (s.withFetchWord 16 w.toNat) = .next t

/-- Every operation the board offers completes (R5), in every state. -/
def Obligations.OfferedOperationsComplete : Prop :=
  ∀ (i : Instr) (s : State), offered s i = true → ∃ t, exec i s = .next t ∧ t.pending = s.pending

/-- What the board does not offer is refused by name: a chip that is not fitted (U19; log 10), an attach
with parameters the spec rules out (log 7). That nothing else is refused is `OfferedOperationsComplete`. -/
def Obligations.RefusalsByName : Prop :=
  ∀ (i : Instr) (s : State), offered s i = false →
    exec i s = .refused (if isProtection i then .chipNotFitted else .badParameters)

/-! ### The invariant -/

/-- Every step from a good board context ends in a good one (R18, R20, R23, R26, R50, R59, R302). -/
def Obligations.StepKeepsInvariant : Prop :=
  ∀ s t : State, s.Inv → step s = .next t → t.Inv

/-- The reset state is a good board context. -/
def Obligations.InvariantAtReset : Prop := State.reset.Inv

/-! ### The DMA port and the command decoder -/

/-- Rule R111: "A write to any other register stores and does nothing else". The enabled bytes are
stored, and no other piece of state changes. -/
def Obligations.PlainRegisterWrite : Prop :=
  ∀ (s : State) (off : Nat) (data : Word) (mask : ByteMask),
    registerAt s.params.regMap off ≠ commandReg →
    ∃ v, MergesInto (readReg s (registerAt s.params.regMap off)) data mask v ∧
      exec (.dmaWr off data mask) s =
        .next { s with dma := s.dma.set (registerAt s.params.regMap off).val v, out := none }

/-- Rules R11, R112: a register other than `COMMAND` changes by a `DMA.WR` that names it, or an attach,
alone; a read answers what it holds and changes nothing; so a whole word written reads back. -/
def Obligations.RegistersPersist : Prop :=
  (∀ (i : Instr) (s t : State) (r : Fin 16), r ≠ commandReg → ¬ isAttach i →
    (∀ off data mask, i = .dmaWr off data mask → registerAt s.params.regMap off ≠ r) →
    exec i s = .next t → readReg t r = readReg s r) ∧
  (∀ (s : State) (off : Nat), exec (.dmaRd off) s =
    .next { s with out := some (.word (readReg s (registerAt s.params.regMap off))) }) ∧
  (∀ (s : State) (off : Nat) (data : Word), registerAt s.params.regMap off ≠ commandReg →
    ∃ t, runOps [.dmaWr off data ⟨true, true⟩, .dmaRd off] s = .next t ∧ t.out = some (.word data))

/-- Rules R82, R83, R110: a write that reaches `COMMAND` is the operation its whole merged word decodes
to, whatever bytes it wrote, the empty mask too. -/
def Obligations.CommandWriteRunsMergedWord : Prop :=
  ∀ (s : State) (off : Nat) (data : Word) (mask : ByteMask),
    registerAt s.params.regMap off = commandReg →
    ∃ w, MergesInto (readReg s commandReg) data mask w ∧
      exec (.dmaWr off data mask) s = exec (decodeCommand w) s

/-- Rule R126: a `COMMAND` write whose merged value has bit 15 clear stores the value and drops the line;
in-flight completions stay, and a later completion still raises the line. -/
def Obligations.StopDropsTheLine : Prop :=
  (∀ (s : State) (r : BitVec 15), exec (.dmaStop r) s =
    .next { s with dma := s.dma.set 14 (r.setWidth 16), irq := false, out := none }) ∧
  (∀ (s : State) (off : Nat) (data w : Word) (mask : ByteMask),
    registerAt s.params.regMap off = commandReg → MergesInto (readReg s commandReg) data mask w →
    w.getLsbD 15 = false →
    exec (.dmaWr off data mask) s = .next { s with dma := s.dma.set 14 w, irq := false, out := none }) ∧
  (∀ (s : State) (r : BitVec 15), s.params.fastDma = false → 0 < s.timers →
    runOps [.dmaStop r, .dmaDone] s =
      .next { s with dma := s.dma.set 14 (r.setWidth 16), irq := true, timers := s.timers - 1, out := none })

/-- Rule R130: completion clears bit 15 of `COMMAND` and no other bit and raises the line. In timer mode, with
a completion in flight, the event takes one, whichever command scheduled it; in fast mode the same happens
where the command schedules it, at once (R128). -/
def Obligations.CompletionEvent : Prop :=
  ∀ s : State,
    (s.params.fastDma = false → 0 < s.timers → exec .dmaDone s =
      .next { s with dma := s.dma.set 14 (s.dma[14] &&& 0x7FFF#16), irq := true,
                     timers := s.timers - 1, out := none }) ∧
    (s.params.fastDma = true → ∀ pixels, scheduleCompletion pixels s =
      { s with dma := s.dma.set 14 (s.dma[14] &&& 0x7FFF#16), irq := true })

/-- A call of the completion event that is not enabled, in fast mode or with no completion in flight (R130,
R64, R291), changes nothing: the model's own choice (log 9). So a go command raises the line once (R282):
in fast mode a call after it adds nothing to what the command did, and in timer mode, where none was in
flight before, a second call adds nothing to the first. -/
def Obligations.CompletionNotInFlight : Prop :=
  (∀ s : State, s.params.fastDma = true ∨ s.timers = 0 → exec .dmaDone s = .next { s with out := none }) ∧
  (∀ (f : BltFields) (i : Instr) (m : BitVec 5) (v : Variant) (s : State), (i, m, v) ∈ modeRows f →
    (s.params.fastDma = true → runOps [i, .dmaDone] s = exec i s) ∧
    (s.params.fastDma = false → s.timers = 0 →
      runOps [i, .dmaDone, .dmaDone] s = runOps [i, .dmaDone] s))

/-- Rule R128, for each of the 32 modes of rule R87: in fast mode the go command draws, or does not where
the source is out of the window, and completes inside the write. -/
def Obligations.GoInFastMode : Prop :=
  ∀ (f : BltFields) (i : Instr) (m : BitVec 5) (v : Variant) (s : State),
    (i, m, v) ∈ modeRows f → s.params.fastDma = true →
    exec i s = .next { s with
      dma := s.dma.set 14 (bltWord m f &&& 0x7FFF#16)
      irq := true
      vram := if insideWindow s then draw s.params (buildDescriptor (bltWord m f) v s) s.vram else s.vram
      out := none }

/-- Rules R129, R132, R120: in timer mode the same draw; the busy bit stays, the line drops, and one more
completion is in flight, whether or not one was. -/
def Obligations.GoInTimerMode : Prop :=
  ∀ (f : BltFields) (i : Instr) (m : BitVec 5) (v : Variant) (s : State),
    (i, m, v) ∈ modeRows f → s.params.fastDma = false →
    exec i s = .next { s with
      dma := s.dma.set 14 (bltWord m f)
      irq := false
      timers := s.timers + 1
      vram := if insideWindow s then draw s.params (buildDescriptor (bltWord m f) v s) s.vram else s.vram
      out := none }

/-- The two completion modes differ in nothing but when the completion comes (R128, R129): a go command
and its completion in timer mode do what the go command alone does in fast mode. -/
def Obligations.FastModeIsTimerModeSettled : Prop :=
  ∀ (f : BltFields) (i : Instr) (m : BitVec 5) (v : Variant) (s : State),
    (i, m, v) ∈ modeRows f → s.params.fastDma = false →
    ∃ t u, runOps [i, .dmaDone] s = .next t ∧
      exec i { s with params := { s.params with fastDma := true } } = .next u ∧
      t = { u with params := s.params }

/-- The race of rule R285, both orders: completion then stop leaves the line low, stop then completion
leaves it high; nothing else differs. -/
def Obligations.CompletionStopRace : Prop :=
  ∀ (s : State) (r : BitVec 15), s.params.fastDma = false → 0 < s.timers →
    ∃ t u, runOps [.dmaDone, .dmaStop r] s = .next t ∧ runOps [.dmaStop r, .dmaDone] s = .next u ∧
      t.irq = false ∧ u.irq = true ∧ t = { u with irq := false }

/-- Rule R284: only a write to `COMMAND` and the completion event move the line (an attach drops it); the
protection chips, the CMOS controller, the palette and the video ports never do. -/
def Obligations.NoOtherInterruptSource : Prop :=
  ∀ (i : Instr) (s t : State), writesCommand s i = false → i ≠ .dmaDone → exec i s = .next t →
    t.irq = s.irq ∨ (isAttach i ∧ t.irq = false)

/-- Every field of the transfer descriptor, from the registers, the command word and the mode's variant
(R15, R84, R85; its masks are decision D38), and what its policies emit for a source pixel: NONE nothing,
COPY the pixel in the palette bank, COLOR the fill value, by the pixel's class (R146). -/
def Obligations.DescriptorFields : Prop :=
  ∀ (c : Word) (v : Variant) (s : State),
    (sourceOffset s).toNat = 65536 * s.dma[1].toNat + s.dma[0].toNat ∧
    (buildDescriptor c v s).offset = romFoldOf s.params (sourceOffset s) ∧
    (buildDescriptor c v s).width = s.dma[4].toNat % 1024 ∧
    (buildDescriptor c v s).height = s.dma[5].toNat % 1024 ∧
    (buildDescriptor c v s).xpos = s.dma[2] &&& s.params.xposMask ∧
    (buildDescriptor c v s).ypos = s.dma[3] &&& s.params.yposMask ∧
    (buildDescriptor c v s).pal = s.dma[6] &&& s.params.palMask ∧
    (buildDescriptor c v s).color = (s.dma[6] &&& s.params.palMask) ||| (s.dma[7] &&& 0xFF#16) ∧
    (buildDescriptor c v s).preskipSh = c.toNat / 256 % 4 ∧
    (buildDescriptor c v s).postskipSh = c.toNat / 1024 % 4 ∧
    (buildDescriptor c v s).skip = c.getLsbD 7 ∧
    (buildDescriptor c v s).clipdrop = c.getLsbD 6 ∧
    (buildDescriptor c v s).yflip = c.getLsbD 5 ∧
    (buildDescriptor c v s).xflip = v.xflip ∧
    (buildDescriptor c v s).zero = v.zero ∧
    (buildDescriptor c v s).nonzero = v.nonzero ∧
    (buildDescriptor c v s).bpp =
      (if c.toNat / 4096 % 8 = 0 then 8 else c.toNat / 4096 % 8) ∧
    (buildDescriptor c v s).topclip = s.dma[8].toNat % 512 ∧
    (buildDescriptor c v s).botclip = s.dma[9].toNat % 512 ∧
    (buildDescriptor c v s).leftclip = s.dma[10].toNat % 1024 ∧
    (buildDescriptor c v s).rightclip = s.dma[11].toNat % 1024 ∧
    (buildDescriptor c v s).xstep = (if s.dma[12].toNat = 0 then 256 else s.dma[12].toNat) ∧
    (buildDescriptor c v s).ystep = (if s.dma[13].toNat = 0 then 256 else s.dma[13].toNat) ∧
    (s.params.xposMask = 0x3FF#16 → (buildDescriptor c v s).xpos.toNat = s.dma[2].toNat % 1024) ∧
    (s.params.yposMask = 0x1FF#16 → (buildDescriptor c v s).ypos.toNat = s.dma[3].toNat % 512) ∧
    ∀ px, emitted (buildDescriptor c v s) px =
      match (if px = 0#16 then v.zero else v.nonzero) with
      | .none => none
      | .copy => some (px ||| (s.dma[6] &&& s.params.palMask))
      | .color => some ((s.dma[6] &&& s.params.palMask) ||| (s.dma[7] &&& 0xFF#16))

/-- Rule R151: a go command of zero width or zero height writes nothing to video memory and still raises
completion. -/
def Obligations.ZeroSizeDrawsNothing : Prop :=
  ∀ (f : BltFields) (i : Instr) (m : BitVec 5) (v : Variant) (s : State),
    (i, m, v) ∈ modeRows f → s.dma[4].toNat % 1024 = 0 ∨ s.dma[5].toNat % 1024 = 0 →
    ∃ t, exec i s = .next t ∧ t.vram = s.vram ∧
      (s.params.fastDma = true → t.irq = true ∧ busy t = false) ∧
      (s.params.fastDma = false → t.timers = s.timers + 1)

/-- Rule R131: completion is raised for every go command without exception. -/
def Obligations.EveryGoCompletes : Prop :=
  ∀ (f : BltFields) (i : Instr) (m : BitVec 5) (v : Variant) (s : State), (i, m, v) ∈ modeRows f →
    ∃ t, exec i s = .next t ∧
      (s.params.fastDma = true → t.irq = true ∧ busy t = false) ∧
      (s.params.fastDma = false → busy t = true ∧ t.timers = s.timers + 1 ∧
        ∃ u, exec .dmaDone t = .next u ∧ u.irq = true ∧ busy u = false ∧ u.timers = s.timers)

/-- Rules R125, R58, R146: a source outside the ROM window, whatever the mode (decision D39), and a mode
whose two policies are NONE, leave every cell as it is. -/
def Obligations.NothingDrawnOutOfWindowOrByNone : Prop :=
  ∀ (f : BltFields) (i : Instr) (m : BitVec 5) (v : Variant) (s : State), (i, m, v) ∈ modeRows f →
    s.params.romWindowBits ≤ (romFoldOf s.params (sourceOffset s)).toNat ∨
      (v.zero = .none ∧ v.nonzero = .none) →
    ∃ t, exec i s = .next t ∧ t.vram = s.vram

/-- The bits a `RomBits` field takes (R53; the bit and byte order are decision D4): bit `j` is bit
`(o + j) mod 8` of byte `(o + j) / 8`; bytes past the image are the free value `ROM_PAD` (log 8). -/
def Obligations.RomBitsAreLittleEndian : Prop :=
  ∀ (p : Params) (o : BitAddr) (n j : Nat), 1 ≤ n → n ≤ 8 →
    (romBits p o n).getLsbD j =
      (decide (j < n) && (romByte p ((o.toNat + j) / 8)).getLsbD ((o.toNat + j) % 8)) ∧
    (∀ i b, p.rom[i]? = some b → romByte p i = b) ∧
    (∀ i, p.rom[i]? = none → romByte p i = Config.romPad i)

/-- The blitter's picture (R141, R143 to R149), for every mode, depth, flip, scale, clip variant, mask and
place without skip mode. Every cell holds what the transfer's pixels drawn at it make of it, in drawing
order, and its old value where there is none. Where the rectangle passes no edge the picture is a plain one:
the pixel of destination row `r` and column `c` comes from source row `r * ystep / 256` and source pixel
`c * xstep / 256`, under the mode's policy for its class (`pixelCell`); every other cell keeps its value. -/
def Obligations.DrawnRectangle : Prop :=
  ∀ (f : BltFields) (i : Instr) (m : BitVec 5) (v : Variant) (s : State) (d : Descriptor),
    (i, m, v) ∈ modeRows f → d = buildDescriptor (bltWord m f) v s → d.skip = false →
    insideWindow s = true → s.vram.wf = true →
    ∃ t, exec i s = .next t ∧
      (∀ k, t.vram.read k = pictureCell s v d.bpp (rectPixels s.params d) k (s.vram.read k)) ∧
      (FlatRectangle s.params d →
        (∀ r < drawnRows d, ∀ c < drawnColumns d, unclipped d (· < drawnColumns d) r c →
          t.vram.read (rectCell d r c) =
            pixelCell s v (romBits s.params
              (d.offset + BitVec.ofNat 32 ((r * d.ystep / 256 * d.width + c * d.xstep / 256) * d.bpp))
              d.bpp) (s.vram.read (rectCell d r c))) ∧
        (∀ k, (∀ r < drawnRows d, ∀ c < drawnColumns d, unclipped d (· < drawnColumns d) r c →
            k ≠ rectCell d r c) → t.vram.read k = s.vram.read k))

/-- The same in skip mode (R89, R142): source row `n` begins with its control byte at bit `base n`, and its
length follows from its own control byte. Destination row `r` shows source row `r * ystep / 256`, from its
first column on to the skipped end; the skipped pixels are not stored and their cells keep their values. -/
def Obligations.DrawnSkipRows : Prop :=
  ∀ (f : BltFields) (i : Instr) (m : BitVec 5) (v : Variant) (s : State) (d : Descriptor)
    (base : Nat → BitAddr) (row : Nat → BitAddr),
    (i, m, v) ∈ modeRows f → d = buildDescriptor (bltWord m f) v s → d.skip = true →
    insideWindow s = true → s.vram.wf = true →
    base 0 = d.offset →
    (∀ n, base (n + 1) = base n + 8#32 + BitVec.ofNat 32
      ((d.width - skippedBefore s.params d (base n) - skippedAfter s.params d (base n)) * d.bpp)) →
    (∀ r, row r = base (r * d.ystep / 256)) →
    ∃ t, exec i s = .next t ∧
      (∀ k, t.vram.read k = pictureCell s v d.bpp (skipPixels s.params d row) k (s.vram.read k)) ∧
      (FlatRectangle s.params d →
        (∀ r < drawnRows d, ∀ c, drawsColumn s.params d (row r) c →
          unclipped d (drawsColumn s.params d (row r)) r c →
          t.vram.read (rectCell d r c) =
            pixelCell s v (romBits s.params (skipPixelAt s.params d (row r) c) d.bpp)
              (s.vram.read (rectCell d r c))) ∧
        (∀ k, (∀ r < drawnRows d, ∀ c, drawsColumn s.params d (row r) c →
            unclipped d (drawsColumn s.params d (row r)) r c → k ≠ rectCell d r c) →
          t.vram.read k = s.vram.read k))

/-- No go command writes a cell outside the clip rectangle, nor one whose row or column its mask would
change (R59, R143, R144, R150), whatever the descriptor. -/
def Obligations.DrawStaysInClipRectangle : Prop :=
  ∀ (f : BltFields) (i : Instr) (m : BitVec 5) (v : Variant) (s : State),
    (i, m, v) ∈ modeRows f → s.vram.wf = true →
    ∃ t, exec i s = .next t ∧ ∀ k, t.vram.read k ≠ s.vram.read k →
      ∃ row col : Word, k = (512 * row.toNat + col.toNat) % s.params.vramCells ∧
        row &&& s.params.yposMask = row ∧ col &&& s.params.xposMask = col ∧
        s.dma[8].toNat % 512 ≤ row.toNat ∧ row.toNat ≤ s.dma[9].toNat % 512 ∧
        s.dma[10].toNat % 1024 ≤ col.toNat ∧ col.toNat ≤ s.dma[11].toNat % 1024

/-! ### Control write, video memory, palette -/

/-- Rule R200 with the field places of rule R18 (decision D15). -/
def Obligations.ControlWrite : Prop :=
  ∀ (s : State) (data : Word) (mask : ByteMask),
    ∃ v, MergesInto s.ctrl data mask v ∧
      (s.params.family = .Y ∨ s.params.family = .Z → exec (.ctrlWr data mask) s =
        .next { s with ctrl := v, bankSelect := !v.getLsbD 5, autoeraseEn := !v.getLsbD 4,
                       cmosPage := v.toNat / 64 % 4 * s.params.cmosPageWords, out := none }) ∧
      (s.params.family = .T ∨ s.params.family = .Wolf → exec (.ctrlWr data mask) s =
        .next { s with ctrl := v, bankSelect := v.getLsbD 5, autoeraseEn := !v.getLsbD 4, out := none })

/-- Rules R201, R206 (decisions D13, D14, D16): a host write to video memory. `store` and `load` are the
lookup tables on Y and Z, the identity on T and Wolf. No cell but the enabled ones changes. -/
def Obligations.VideoMemoryWrite : Prop :=
  ∀ (s : State) (off : Nat) (data : Word) (mask : ByteMask) (store load : Word → Word),
    s.vram.wf = true → 2 ≤ s.params.vramCells →
    (s.params.family = .T ∨ s.params.family = .Wolf → store = id ∧ load = id) →
    (s.params.family = .Y ∨ s.params.family = .Z →
      store = forwardLookup s.params ∧ load = reverseLookup s.params) →
    ∃ vram, exec (.vramWr off data mask) s = .next { s with vram := vram, out := none } ∧
      ∀ k, vram.read k =
        if mask.lo = true ∧ k = 2 * off % s.params.vramCells then
          store (if s.bankSelect then (data &&& 0xFF#16) ||| ((s.dma[6] &&& 0xFF#16) <<< 8)
            else (load (s.vram.read k) &&& 0xFF#16) ||| ((data &&& 0xFF#16) <<< 8))
        else if mask.hi = true ∧ k = (2 * off + 1) % s.params.vramCells then
          store (if s.bankSelect then (data >>> 8) ||| (s.dma[6] &&& 0xFF00#16)
            else (load (s.vram.read k) &&& 0xFF#16) ||| (data &&& 0xFF00#16))
        else s.vram.read k

/-- Rules R203, R207 (decisions D13, D16): a host read of video memory, from live `vram`. -/
def Obligations.VideoMemoryRead : Prop :=
  ∀ (s : State) (off : Nat) (load : Word → Word) (even odd : Word),
    (s.params.family = .T ∨ s.params.family = .Wolf → load = id) →
    (s.params.family = .Y ∨ s.params.family = .Z → load = reverseLookup s.params) →
    even = load (s.vram.read (2 * off % s.params.vramCells)) →
    odd = load (s.vram.read ((2 * off + 1) % s.params.vramCells)) →
    exec (.vramRd off) s = .next { s with
      out := some (.word (if s.bankSelect then (even &&& 0xFF#16) ||| ((odd &&& 0xFF#16) <<< 8)
        else (even >>> 8) ||| (odd &&& 0xFF00#16))) }

/-- A whole word written to video memory reads back, in either bank and through the lookup tables, which
are inverse to each other (R203 "reads mirror the split", R205). -/
def Obligations.VideoMemoryRoundTrip : Prop :=
  ∀ (s : State) (off : Nat) (data : Word),
    s.params.wf = true → s.vram.wf = true → 2 ≤ s.params.vramCells →
    ∃ t, runOps [.vramWr off data ⟨true, true⟩, .vramRd off] s = .next t ∧ t.out = some (.word data)

/-- Rule R208 (decision D36): the mirror keeps the word, and the colour goes out in 8:8:8. -/
def Obligations.PaletteWrite : Prop :=
  ∀ (s : State) (off : Nat) (data : Word), s.palram.wf = true →
    ∃ palram r g b, exec (.palWr off data) s =
        .next { s with palram := palram, out := some (.colour off r g b) } ∧
      (∀ k, palram.read k = if k = off % s.params.palEntries then data else s.palram.read k) ∧
      (∃ c, c = data.toNat / 1024 % 32 ∧ r.toNat = 8 * c + c / 4) ∧
      (∃ c, c = data.toNat / 32 % 32 ∧ g.toNat = 8 * c + c / 4) ∧
      (∃ c, c = data.toNat % 32 ∧ b.toNat = 8 * c + c / 4)

/-! ### The compositor and the shift-register port -/

/-- Rule R219 (decision D17): on T and Wolf the compositor's calls change no state of the block. -/
def Obligations.CompositorIdleOnTWolf : Prop :=
  ∀ (s : State) (line : Int) (pageflip : Bool), s.params.family = .T ∨ s.params.family = .Wolf →
    exec (.vidLine line pageflip) s = .next { s with out := none } ∧
    exec (.vidEof pageflip) s = .next { s with out := none }

/-- Rules R210, R211, R216, R217, R60 (the range and the line-to-row map are decision D17): the call copies the
rows of the lines not copied yet, up to the clamped line, and no other cell of the shadow buffer changes. On
a board whose `LINE_ROW` leaves video memory a row's cells are taken modulo `VRAM_CELLS`, which is the
model's inference and not R211's text (log 11, DEDUCED). -/
def Obligations.LineCopiesIntoShadow : Prop :=
  ∀ (s : State) (line : Int) (pageflip : Bool) (e : Nat),
    s.params.family = .Y ∨ s.params.family = .Z → s.shadow.wf = true →
    (e : Int) = max (s.params.visibleFirst : Int) (min line (s.params.visibleLast : Int)) →
    s.params.visibleFirst ≤ s.params.visibleLast →
    ∃ t, exec (.vidLine line pageflip) s = .next t ∧
      (∀ l k, s.nextLine ≤ l → l ≤ e → inRowOf s.params l k → t.shadow.read k = s.vram.read k) ∧
      (∀ k, (∀ l, s.nextLine ≤ l → l ≤ e → ¬ inRowOf s.params l k) →
        t.shadow.read k = s.shadow.read k) ∧
      t.nextLine = (if s.nextLine ≤ e then e + 1 else s.nextLine) ∧
      t = { s with vram := t.vram, shadow := t.shadow, nextLine := t.nextLine, eraseNext := t.eraseNext,
                   eraseDeferred := t.eraseDeferred, out := none }

/-- Rules R214, R215 (decisions D17, D18): the call's autoerase. With the enable set, in shadow-buffer
mode the rows of the lines not erased yet take the reference row; in page-flip mode the lines are recorded
instead. With it clear neither happens; the line counter moves in every case. -/
def Obligations.LineAutoErase : Prop :=
  ∀ (s : State) (line : Int) (pageflip : Bool) (e : Nat),
    s.Inv → s.params.family = .Y ∨ s.params.family = .Z → rowsFit s.params →
    (e : Int) = max (s.params.visibleFirst : Int) (min line (s.params.visibleLast : Int)) →
    ∃ t, exec (.vidLine line pageflip) s = .next t ∧
      t.eraseNext = (if s.eraseNext ≤ e then e + 1 else s.eraseNext) ∧
      (s.autoeraseEn = true ∧ pageflip = false →
        (∀ l c, s.eraseNext ≤ l → l ≤ e → c < 512 →
          t.vram.read (cellIndex s.params (lineRowOf s.params l) c) =
            s.vram.read (cellIndex s.params s.params.autoeraseRow c)) ∧
        (∀ k, (∀ l, s.eraseNext ≤ l → l ≤ e → ¬ inRowOf s.params l k) → t.vram.read k = s.vram.read k)) ∧
      (¬ (s.autoeraseEn = true ∧ pageflip = false) → t.vram = s.vram) ∧
      (∀ l, l ∈ t.eraseDeferred ↔ l ∈ s.eraseDeferred ∨
        (s.autoeraseEn = true ∧ pageflip = true ∧ s.eraseNext ≤ l ∧ l ≤ e))

/-- Rule R218 (decision D17): the end of the frame. The rest of the visible rows is copied, the lines not
erased yet and the deferred ones are erased, and the counters start again. -/
def Obligations.EndOfFrameFlush : Prop :=
  ∀ (s : State) (pageflip : Bool),
    s.Inv → s.params.family = .Y ∨ s.params.family = .Z → rowsFit s.params →
    ∃ t, exec (.vidEof pageflip) s = .next t ∧
      (∀ l k, s.nextLine ≤ l → l ≤ s.params.visibleLast → inRowOf s.params l k →
        t.shadow.read k = s.vram.read k) ∧
      (∀ k, (∀ l, s.nextLine ≤ l → l ≤ s.params.visibleLast → ¬ inRowOf s.params l k) →
        t.shadow.read k = s.shadow.read k) ∧
      (∀ l c, c < 512 → l ∈ s.eraseDeferred ∨
          (s.autoeraseEn = true ∧ s.eraseNext ≤ l ∧ l ≤ s.params.visibleLast) →
        t.vram.read (cellIndex s.params (lineRowOf s.params l) c) =
          s.vram.read (cellIndex s.params s.params.autoeraseRow c)) ∧
      (∀ k, (∀ l, l ∈ s.eraseDeferred ∨
          (s.autoeraseEn = true ∧ s.eraseNext ≤ l ∧ l ≤ s.params.visibleLast) → ¬ inRowOf s.params l k) →
        t.vram.read k = s.vram.read k) ∧
      t = { s with vram := t.vram, shadow := t.shadow, nextLine := s.params.visibleFirst,
                   eraseNext := s.params.visibleFirst, eraseDeferred := [], out := none }

/-- Rule R212: whatever happens between the call that covers a row and the end of the frame, the shadow
buffer keeps the row as the call found it (decision D17). For a row that no other visible line shows. On a
board whose `LINE_ROW` leaves video memory a row's cells are taken modulo `VRAM_CELLS`, which is the model's
inference (log 11, DEDUCED). -/
def Obligations.CoveredRowsKeepTheirPicture : Prop :=
  ∀ (s t : State) (line : Int) (pageflip lastflip : Bool) (between : List Instr) (l k : Nat),
    s.Inv → s.params.family = .Y ∨ s.params.family = .Z →
    s.nextLine ≤ l → visibleLine s.params l → (l : Int) ≤ line → inRowOf s.params l k →
    (∀ l', visibleLine s.params l' → l' ≠ l → ¬ inRowOf s.params l' k) →
    (∀ i ∈ between, ¬ isAttach i ∧ ∀ flip, i ≠ .vidEof flip) →
    runOps (.vidLine line pageflip :: between ++ [.vidEof lastflip]) s = .next t →
    t.shadow.read k = s.vram.read k

/-- Rules R224, R225 (decision D35): the shift-register port moves 1024 whole cells from bit address
`addr`, out to the host's buffer or in from it, and nothing else. -/
def Obligations.ShiftRegisterTransfers : Prop :=
  ∀ (s : State) (addr : Nat) (buffer : ShiftBuffer),
    (∃ words, exec (.srToHost addr) s = .next { s with out := some (.buffer words) } ∧
      words.length = 1024 ∧
      ∀ j < 1024, words[j]? = some (s.vram.read ((addr / 8 + j) % s.params.vramCells))) ∧
    (s.vram.wf = true → 1024 ≤ s.params.vramCells →
      ∃ vram, exec (.srFromHost addr buffer) s = .next { s with vram := vram, out := none } ∧
        (∀ j : Fin 1024, vram.read ((addr / 8 + j.val) % s.params.vramCells) = buffer[j]) ∧
        (∀ k, (∀ j < 1024, k ≠ (addr / 8 + j) % s.params.vramCells) → vram.read k = s.vram.read k))

/-! ### The CMOS controller -/

/-- Rule R230 (its wrap is decision D19): the word at offset plus page base; reads are never gated. -/
def Obligations.CmosRead : Prop :=
  ∀ (s : State) (off : Nat),
    (s.params.family = .Y ∨ s.params.family = .Z → exec (.cmosRd off) s = .next { s with
      out := some (.word (s.cmos.read ((off + s.cmosPage) % (4 * s.params.cmosPageWords)))) }) ∧
    (s.params.family = .T ∨ s.params.family = .Wolf → exec (.cmosRd off) s = .next { s with
      out := some (.word (s.cmos.read ((off + s.cmosPage) % s.params.cmosPageWords))) })

/-- Rules R231, R232 (Z is decision D20): the write merges the enabled bytes where it is allowed, always on
T and with the permission elsewhere, is dropped otherwise, and consumes the permission either way. -/
def Obligations.CmosWrite : Prop :=
  ∀ (s : State) (off : Nat) (data : Word) (mask : ByteMask), s.cmos.wf = true →
    (s.params.family = .T ∨ s.cmosWe = true →
      ∃ cmos a, exec (.cmosWr off data mask) s =
          .next { s with cmos := cmos, cmosWe := false, out := none } ∧
        (s.params.family = .Y ∨ s.params.family = .Z →
          a = (off + s.cmosPage) % (4 * s.params.cmosPageWords)) ∧
        (s.params.family = .T ∨ s.params.family = .Wolf →
          a = (off + s.cmosPage) % s.params.cmosPageWords) ∧
        MergesInto (s.cmos.read a) data mask (cmos.read a) ∧
        ∀ k, k ≠ a → cmos.read k = s.cmos.read k) ∧
    (s.params.family ≠ .T → s.cmosWe = false →
      exec (.cmosWr off data mask) s = .next { s with out := none })

/-- Rule R232: "after one `CMOS.EN`, exactly one `CMOS.WR` is allowed", on Wolf, Y and Z (Z is decision
D20): the first write after the enable is the write an enabled store makes, the second is dropped; a second
enable before the first write adds nothing (R233). -/
def Obligations.CmosPermissionIsOneShot : Prop :=
  ∀ (s : State) (d₁ d₂ data₁ data₂ : Word) (off₁ off₂ : Nat) (m₁ m₂ : ByteMask),
    s.params.family ≠ .T →
    ∃ t u, exec (.cmosEn d₁) s = .next t ∧ t.cmosWe = true ∧
      exec (.cmosWr off₁ data₁ m₁) t = .next u ∧
      runOps [.cmosEn d₁, .cmosWr off₁ data₁ m₁, .cmosWr off₂ data₂ m₂] s = .next u ∧
      ∃ w, runOps [.cmosEn d₁, .cmosEn d₂, .cmosWr off₁ data₁ m₁, .cmosWr off₂ data₂ m₂] s = .next w ∧
        w.cmos = u.cmos ∧ w.cmosWe = false

/-- Rule R233 (the shared write is decision D43): the enable write sets the permission; on a board with
chip 4 it is the write that feeds the chip. -/
def Obligations.CmosEnable : Prop :=
  ∀ (s : State) (data : Word),
    (chipIs s.context 4 = false → exec (.cmosEn data) s = .next { s with cmosWe := true, out := none }) ∧
    (chipIs s.context 4 = true → exec (.cmosEn data) s = exec (.prot4Wr data) s ∧
      ∃ t, exec (.cmosEn data) s = .next t ∧ t.cmosWe = true ∧
        t = { s with cmosWe := true, p4Fifo := t.p4Fifo, p4Cursor := t.p4Cursor,
                     p4Result := t.p4Result, out := none })

/-- Rules R234, R237: on Y and Z a write on one page is seen on that page at that offset and nowhere
else. Pages are chosen by control bits 7:6 (decision D15). -/
def Obligations.CmosPagesAreSeparate : Prop :=
  ∀ (s : State) (page₁ page₂ off₁ off₂ : Nat) (enable data : Word),
    s.params.family = .Y ∨ s.params.family = .Z → s.cmos.wf = true →
    page₁ < 4 → page₂ < 4 → off₁ < s.params.cmosPageWords → off₂ < s.params.cmosPageWords →
    ∃ t, runOps [.ctrlWr (BitVec.ofNat 16 (64 * page₁)) ⟨true, true⟩, .cmosEn enable,
        .cmosWr off₁ data ⟨true, true⟩, .ctrlWr (BitVec.ofNat 16 (64 * page₂)) ⟨true, true⟩,
        .cmosRd off₂] s = .next t ∧
      t.out = some (.word (if page₁ = page₂ ∧ off₁ = off₂ then data
        else s.cmos.read (page₂ * s.params.cmosPageWords + off₂)))

/-- Rule R235 (byte order decision D4, short blobs decision D19): word `k` is bytes `2k` and `2k + 1` of
the blob, missing bytes are 0 (log 14), and no file makes every word 0. -/
def Obligations.CmosLoad : Prop :=
  ∀ (s : State) (bytes : List Byte),
    (∃ cmos, exec (.cmosLoad (some bytes)) s = .next { s with cmos := cmos, out := none } ∧
      ∀ k, (cmos.read k).toNat = if k < cmosWords s.params then
        (bytes.getD (2 * k) 0#8).toNat + 256 * (bytes.getD (2 * k + 1) 0#8).toNat else 0) ∧
    (∃ cmos, exec (.cmosLoad none) s = .next { s with cmos := cmos, out := none } ∧
      ∀ k, cmos.read k = 0#16)

/-- Rules R236, R235, R302 (decision D40): a save hands out the whole store and changes nothing; loading what
was saved, on a board with the same parameters, gives the store back. A detach hands out the same blob,
destroys the context and drops the completions in flight; with no call after it the run is over (R312). How
a destroyed context stands in the state (log 17), and that a run's end is asked of the calls of every agent
(log 21), are the model's choice. -/
def Obligations.CmosSaveThenLoad : Prop :=
  ∀ s u : State, s.cmos.good (cmosWords s.params) → u.params = s.params →
    ∃ bytes, exec .cmosSave s = .next { s with out := some (.blob bytes) } ∧
      bytes.length = 2 * cmosWords s.params ∧
      exec (.cmosLoad (some bytes)) u = .next { u with cmos := s.cmos, out := none } ∧
      ∀ rest, s.live = true → s.pending = .event .detach :: rest →
        ∃ t, step s = .next t ∧
          t = { s with live := false, timers := 0, pending := rest, out := some (.blob bytes) } ∧
          (rest = [] → runOver t = true)

/-! ### The protection chips -/

/-- Rules R240, R241, R242 (the field's place and the wrap are decisions D21, D22): a read answers the
entry under the cursor and moves on, from the first entry again past the last; a write with the high byte
enabled selects the least entry that matches, or the first, and without it does nothing. -/
def Obligations.Chip1CyclesItsTable : Prop :=
  ∀ (s : State) (table : List (BitVec 6)) (shift : Nat), s.params.chip = some (.mk1 table shift) →
    (∀ j v, table[j]? = some v → s.p1Cursor = j ∨ (j = 0 ∧ table.length ≤ s.p1Cursor) →
      exec .prot1Rd s = .next { s with p1Cursor := j + 1, out := some (.word ((v.setWidth 16 : Word) <<< 9)) }) ∧
    (∀ data lo, exec (.prot1Wr data ⟨lo, false⟩) s = .next { s with out := none }) ∧
    (∀ (data : Word) lo j, table[j]? = some ((data >>> shift).setWidth 6) →
      (∀ j' < j, table[j']? ≠ some ((data >>> shift).setWidth 6)) →
      exec (.prot1Wr data ⟨lo, true⟩) s = .next { s with p1Cursor := j, out := none } ∧
      runOps [.prot1Wr data ⟨lo, true⟩, .prot1Rd] s = .next { s with
        p1Cursor := j + 1, out := some (.word ((((data >>> shift).setWidth 6).setWidth 16 : Word) <<< 9)) }) ∧
    (∀ (data : Word) lo, (data >>> shift).setWidth 6 ∉ table →
      exec (.prot1Wr data ⟨lo, true⟩) s = .next { s with p1Cursor := 0, out := none })

/-- Rules R245, R246, R247: chip 2's three reads; each changes nothing, and before any write the latch
reads 0. -/
def Obligations.Chip2Reads : Prop :=
  (∀ s : State, s.params.chip = some .mk2 →
    exec .prot2Rd s = .next { s with out := some (.word s.p2Latch) } ∧
    (∃ v, exec .prot2RdSh s = .next { s with out := some (.word v) } ∧ v.toNat = s.p2Latch.toNat / 2) ∧
    exec .prot2RdC s = .next { s with out := some (.word 2#16) }) ∧
  (∀ p : Params, (attached p).p2Latch = 0#16)

/-- Rule R248 (the masked merge is decision D23). -/
def Obligations.Chip2Write : Prop :=
  ∀ (s : State) (data : Word) (mask : ByteMask), s.params.chip = some .mk2 →
    ∃ v, MergesInto s.p2Latch data mask v ∧
      exec (.prot2Wr data mask) s = .next { s with p2Latch := v, out := none }

/-- Rule R250: chip 3's reads dequeue in order and stick at the last slot: after `n` reads from the first
slot the next answers slot `min n 4`. Before any write every read answers 0. -/
def Obligations.Chip3ReadsStick : Prop :=
  (∀ s table shift mask, s.params.chip = some (.nbaJam table shift mask) →
    exec .prot3Rd s = .next { s with
      p3Cursor := Fin.ofNat 5 (min (s.p3Cursor.val + 1) 4), out := some (.word s.p3Queue[s.p3Cursor]) }) ∧
  (∀ s table shift mask n, s.params.chip = some (.nbaJam table shift mask) → s.p3Cursor = 0 →
    runOps (List.replicate n .prot3Rd ++ [.prot3Rd]) s = .next { s with
      p3Cursor := Fin.ofNat 5 (min (n + 1) 4), out := some (.word s.p3Queue[Fin.ofNat 5 (min n 4)]) }) ∧
  (∀ (p : Params) (j : Fin 5), (attached p).p3Queue[j] = 0#16)

/-- Rule R251 (the index and slot 0 are decision D24): the five slots a write fills. -/
def Obligations.Chip3WriteFillsQueue : Prop :=
  ∀ (s : State) (table : Vector (BitVec 32) 128) (shift : Nat) (mask data : Word) (off : Nat)
    (j : Fin 128), s.params.chip = some (.nbaJam table shift mask) → j.val = off / 2 ^ shift % 128 →
    ∃ queue : Vector Word 5, exec (.prot3Wr off data) s =
        .next { s with p3Queue := queue, p3Cursor := 0, out := none } ∧
      queue[0] = data &&& mask ∧
      queue[1].toNat = table[j].toNat / 2 ^ 24 * 512 % 65536 ∧
      queue[2].toNat = table[j].toNat / 2 ^ 16 % 256 * 512 % 65536 ∧
      queue[3].toNat = table[j].toNat / 2 ^ 8 % 256 * 512 % 65536 ∧
      queue[4].toNat = table[j].toNat % 256 * 512 % 65536

/-- Rules R257 to R262 (decisions D26, D27, D43): one enable write on chip 4. The history shifts in the
masked word; a title of the Strike Force kind only watches for `0x0500`; any other resets the cursor on
the pattern, before it clocks on a falling edge of bit 11. -/
def Obligations.Chip4Write : Prop :=
  ∀ (s : State) (data d code : Word) (resetSeq fifo : Vector Word 3) (dataSeq : List Word)
    (ex : List (Word × Word)) (start : Nat), d = data &&& 0x0F00#16 →
    fifo = #v[s.p4Fifo[1], s.p4Fifo[2], d] → start = (if fifo = resetSeq then 0 else s.p4Cursor) →
    (s.params.chip = some (.yUnit resetSeq dataSeq true code ex) →
      exec (.prot4Wr data) s = .next { s with
        cmosWe := true, p4Fifo := fifo, out := none
        p4Result := if d = 0x0500#16 then withExceptions ex (code <<< 4) code else s.p4Result }) ∧
    (s.params.chip = some (.yUnit resetSeq dataSeq false code ex) →
      ((s.p4Fifo[2].getLsbD 11 = false ∨ d.getLsbD 11 = true ∨ dataSeq = []) →
        exec (.prot4Wr data) s =
          .next { s with cmosWe := true, p4Fifo := fifo, p4Cursor := start, out := none }) ∧
      (∀ v, s.p4Fifo[2].getLsbD 11 = true → d.getLsbD 11 = false → dataSeq[start]? = some v →
        exec (.prot4Wr data) s = .next { s with
          cmosWe := true, p4Fifo := fifo, out := none, p4Result := v, p4Cursor := min (start + 1) (dataSeq.length - 1) }))

/-- Rule R260 (decision D26): each further falling edge moves the cursor by one and it stays at the
table's end: after `n + 1` clocks from cursor 0 the latch holds entry `min n (len - 1)`. The clock is the
pair of writes `hi`, `lo`, and the pattern of the reset never stands in the history meanwhile. -/
def Obligations.Chip4ClocksThroughTable : Prop :=
  ∀ (s : State) (hi lo code v : Word) (resetSeq : Vector Word 3) (dataSeq : List Word)
    (ex : List (Word × Word)) (n : Nat),
    s.params.chip = some (.yUnit resetSeq dataSeq false code ex) →
    hi.getLsbD 11 = true → lo.getLsbD 11 = false → s.p4Cursor = 0 →
    resetSeq ≠ #v[lo &&& 0x0F00#16, hi &&& 0x0F00#16, lo &&& 0x0F00#16] →
    resetSeq ≠ #v[hi &&& 0x0F00#16, lo &&& 0x0F00#16, hi &&& 0x0F00#16] →
    resetSeq ≠ #v[s.p4Fifo[1], s.p4Fifo[2], hi &&& 0x0F00#16] →
    resetSeq ≠ #v[s.p4Fifo[2], hi &&& 0x0F00#16, lo &&& 0x0F00#16] →
    dataSeq[min n (dataSeq.length - 1)]? = some v →
    ∃ t, runOps (List.replicate (n + 1) [Instr.prot4Wr hi, .prot4Wr lo]).flatten s = .next t ∧
      t.p4Result = v ∧ t.p4Cursor = min (n + 1) (dataSeq.length - 1)

/-- Rule R261: a chip 4 read answers the latch and changes nothing, so any number of reads answer the
same; before any clock it answers 0. -/
def Obligations.Chip4Read : Prop :=
  (∀ s resetSeq dataSeq sf code ex, s.params.chip = some (.yUnit resetSeq dataSeq sf code ex) →
    exec .prot4Rd s = .next { s with out := some (.word s.p4Result) } ∧
    ∀ n, runOps (List.replicate n .prot4Rd ++ [.prot4Rd]) s =
      .next { s with out := some (.word s.p4Result) }) ∧
  (∀ p : Params, (attached p).p4Result = 0#16)

/-- Rules R266, R268, R269 (decision D28): chip 5's writes and its status port. A write with the clock bit
low echoes, or takes the next byte of the buffer; 16 bytes on, the buffer starts again. -/
def Obligations.Chip5Write : Prop :=
  ∀ (s : State) (data : Word) (buffer : Vector Byte 16) (orMask : Byte),
    s.params.chip = some (.serial buffer orMask) →
    (data.getLsbD 4 = true →
      exec (.prot5Wr data) s = .next { s with serialStatus := true, out := none }) ∧
    (data.getLsbD 4 = false → data.toNat % 16 ≠ 0 → exec (.prot5Wr data) s =
      .next { s with serialStatus := false, p5Latch := orMask ||| data.setWidth 8, out := none }) ∧
    (data.getLsbD 4 = false → data.toNat % 16 = 0 →
      exec (.prot5Wr data) s = .next { s with
        serialStatus := false, p5Latch := buffer[s.p5Cursor], p5Cursor := s.p5Cursor + 1, out := none } ∧
      ∀ n, runOps (List.replicate (n + 1) (.prot5Wr data)) s = .next { s with
        serialStatus := false, p5Latch := buffer[s.p5Cursor + Fin.ofNat 16 n],
        p5Cursor := s.p5Cursor + Fin.ofNat 16 (n + 1), out := none }) ∧
    exec .prot5Status s = .next { s with out := some (.word (if s.serialStatus then 1#16 else 0#16)) }

/-- Rule R267: a chip 5 read answers the latch and sets the status bit; the cursor does not move; before
any write it answers 0. -/
def Obligations.Chip5Read : Prop :=
  (∀ s buffer orMask, s.params.chip = some (.serial buffer orMask) →
    ∃ v, exec .prot5Rd s = .next { s with serialStatus := true, out := some (.word v) } ∧
      v.toNat = s.p5Latch.toNat) ∧
  (∀ p : Params, (attached p).p5Latch = 0#8)

/-- 45_protection.md, head: "Protection reads/writes are handled independently of the blitter", except for
the write chip 4 shares with `CMOS.EN`. A protection operation leaves everything outside the chip as it
is (chip 4's write sets the CMOS permission), and what it answers and leaves in the chip follows from the
chip alone. -/
def Obligations.ProtectionIsIndependent : Prop :=
  ∀ (i : Instr) (s t s' : State), isProtection i = true → sameChip s t → exec i s = .next s' →
    ∃ t', exec i t = .next t' ∧ sameChip s' t' ∧ t'.out = s'.out ∧
      t'.cmosWe = (match i with
        | .prot4Wr _ => true
        | _ => t.cmosWe) ∧
      t' = { t with p1Cursor := t'.p1Cursor, p2Latch := t'.p2Latch, p3Queue := t'.p3Queue,
                    p3Cursor := t'.p3Cursor, p4Fifo := t'.p4Fifo, p4Cursor := t'.p4Cursor,
                    p4Result := t'.p4Result, p5Cursor := t'.p5Cursor, p5Latch := t'.p5Latch,
                    serialStatus := t'.serialStatus, out := t'.out, cmosWe := t'.cmosWe }

/-! ### Reset -/

/-- Rules R300, R301, R40 to R44 (their values are decision D29): an attach, with parameters the spec
allows, gives every element its reset value, whatever the state before, a destroyed context too; only the
calls still to come stay (log 1). The board is then a live and good one. -/
def Obligations.AttachResets : Prop :=
  ∀ (s : State) (p : Params) (blob : Blob), p.wf = true →
    ∃ t, exec (.reset p blob) s = .next t ∧ t.Inv ∧ t.live = true ∧ t.params = p ∧
      t.pending = s.pending ∧ t.out = none ∧
      (∀ r, readReg t r = 0#16) ∧ t.irq = false ∧ t.timers = 0 ∧ t.ctrl = 0#16 ∧
      t.bankSelect = isYZ p ∧ t.autoeraseEn = true ∧ t.cmosPage = 0 ∧ t.cmosWe = false ∧
      (∀ k, t.vram.read k = 0#16 ∧ t.shadow.read k = 0#16 ∧ t.palram.read k = 0#16) ∧
      t.nextLine = p.visibleFirst ∧ t.eraseNext = p.visibleFirst ∧ t.eraseDeferred = [] ∧
      t.p1Cursor = 0 ∧ t.p2Latch = 0#16 ∧ t.p3Cursor = 0 ∧ t.p4Cursor = 0 ∧ t.p4Result = 0#16 ∧
      (∀ j : Fin 5, t.p3Queue[j] = 0#16) ∧ (∀ j : Fin 3, t.p4Fifo[j] = 0#16) ∧
      t.p5Cursor = 0 ∧ t.p5Latch = 0#8 ∧ t.serialStatus = false ∧
      ∃ u, exec (.cmosLoad blob) t = .next u ∧ u.cmos = t.cmos
end

