-- ==== Sys2Proof/Laws/Decode.lean ====
section
/-! SUPPORT. The laws of the decoder's parts. -/

namespace Sys2Proof

/-- The four masks are read back as the byte enables they stand for (rule R51). -/
@[simp] theorem byteMask?_bits (k : ByteMask) : byteMask? k.bits = some k := by
  obtain ⟨lo, hi⟩ := k
  cases lo <;> cases hi <;> decide

/-- A whole-word write replaces the register (rule R51). -/
@[simp] theorem merge16_full (old data : Word) : merge16 old data ⟨true, true⟩ = data := by
  have h (d : Word) : d &&& 65535#16 = d := BitVec.and_allOnes
  simp [merge16, ByteMask.bits, h]

/-- An empty mask changes nothing (rule R51). -/
@[simp] theorem merge16_empty (old data : Word) : merge16 old data ⟨false, false⟩ = old := by
  have h (d : Word) : d &&& 65535#16 = d := BitVec.and_allOnes
  simp [merge16, ByteMask.bits, h]

/-- On a live board a call is the operation its format gives (rule R80). -/
theorem decode_of_live {c : Context} (h : c.live = true) (call : Call) : decode c call = decodeCall c call := by
  simp [decode, h]

/-- A call that is no attach needs a board context. -/
theorem Call.isAttach_eq_false {call : Call} (h : ∀ p blob, call ≠ .event (.attach p blob)) :
    call.isAttach = false := by
  rcases call with _ | e
  · rfl
  · cases e <;> first | rfl | exact absurd rfl (h _ _)

/-- With no board context every call but an attach is rejected (rule R302; log 17). -/
theorem decode_of_destroyed {c : Context} {call : Call} (h : c.live = false)
    (hc : ∀ p blob, call ≠ .event (.attach p blob)) : decode c call = .error .noContext := by
  simp [decode, h, Call.isAttach_eq_false hc]

/-- The encoder's offset for a command word reaches `COMMAND`, if any offset does. -/
theorem registerAt_commandOffset {c : Context} (h : commandReachable c = true) :
    registerAt c.regMap (commandOffset c) = 14 := by
  unfold commandReachable at h
  rw [List.any_eq_true] at h
  obtain ⟨k, hk, hc⟩ := h
  have hs : ((List.finRange 16).find? fun k => decide (c.regMap[k] = (14 : Fin 16))).isSome := by
    rw [List.find?_isSome]
    exact ⟨k, hk, hc⟩
  obtain ⟨x, hx⟩ := Option.isSome_iff_exists.mp hs
  have hp := List.find?_some hx
  unfold commandOffset registerAt
  rw [hx]
  have : Fin.ofNat 16 x.val = x := Fin.ext (Nat.mod_eq_of_lt x.isLt)
  simpa [this] using hp

/-- The bits of a go command word, field by field (rule R83). -/
theorem bltWord_getLsbD (m : BitVec 5) (f : BltFields) (i : Nat) :
    (bltWord m f).getLsbD i =
      if i < 5 then m.getLsbD i
      else if i < 6 then (BitVec.ofBool f.yflip).getLsbD (i - 5)
      else if i < 7 then (BitVec.ofBool f.clipDrop).getLsbD (i - 6)
      else if i < 8 then (BitVec.ofBool f.skipEn).getLsbD (i - 7)
      else if i < 10 then f.preSh.getLsbD (i - 8)
      else if i < 12 then f.postSh.getLsbD (i - 10)
      else if i < 15 then f.bpp.getLsbD (i - 12)
      else (1#1).getLsbD (i - 15) := by
  by_cases hi : i < 16
  · simp only [bltWord]
    interval_cases i <;> simp
  · rw [BitVec.getLsbD_of_ge _ _ (by omega)]
    split_ifs <;> first | omega | skip
    rw [BitVec.getLsbD_of_ge _ _ (by omega)]

/-- Bit 15 of a go command word is set. -/
theorem bltWord_go (m : BitVec 5) (f : BltFields) : (bltWord m f).getLsbD 15 = true := by
  rw [bltWord_getLsbD]
  rfl

/-- The mode bits of a go command word. -/
theorem bltWord_mode (m : BitVec 5) (f : BltFields) {i : Nat} (h : i < 5) :
    (bltWord m f).getLsbD i = m.getLsbD i := by
  rw [bltWord_getLsbD, if_pos h]

/-- The operand fields of a go command word are read back whole. -/
theorem bltFields_bltWord (m : BitVec 5) (f : BltFields) : bltFields (bltWord m f) = f := by
  obtain ⟨bpp, postSh, preSh, skipEn, clipDrop, yflip⟩ := f
  simp only [bltFields, BltFields.mk.injEq]
  refine ⟨?_, ?_, ?_, ?_, ?_, ?_⟩
  · apply BitVec.eq_of_getLsbD_eq
    intro i hi
    rw [BitVec.getLsbD_extractLsb', bltWord_getLsbD]
    interval_cases i <;> simp
  · apply BitVec.eq_of_getLsbD_eq
    intro i hi
    rw [BitVec.getLsbD_extractLsb', bltWord_getLsbD]
    interval_cases i <;> simp
  · apply BitVec.eq_of_getLsbD_eq
    intro i hi
    rw [BitVec.getLsbD_extractLsb', bltWord_getLsbD]
    interval_cases i <;> simp
  all_goals rw [bltWord_getLsbD]; simp

end Sys2Proof
end

