-- ==== Sys2Proof/Laws/Memory.lean ====
section
/-! SUPPORT. The laws of the stores: read after write, and every operation keeps the canonical form and
the bound. -/

namespace Sys2Proof.Machine

@[simp] theorem Memory.read_nil (k : Nat) : Memory.read [] k = unlistedCell := rfl

/-- A cell below every listed index is not listed. -/
theorem Memory.read_of_wfFrom {m : Memory} {lo k : Nat} (h : Memory.wfFrom lo m = true) (hk : k < lo) :
    m.read k = unlistedCell := by
  induction m generalizing lo with
  | nil => rfl
  | cons c m ih =>
    obtain ⟨a, w⟩ := c
    simp only [Memory.wfFrom, Bool.and_eq_true, decide_eq_true_eq] at h
    rw [Memory.read, if_neg (by omega)]
    exact ih h.2 (by omega)

theorem Memory.wfFrom_mono {m : Memory} {lo lo' : Nat} (h : Memory.wfFrom lo m = true) (hle : lo' ≤ lo) :
    Memory.wfFrom lo' m = true := by
  cases m with
  | nil => rfl
  | cons c m =>
    simp only [Memory.wfFrom, Bool.and_eq_true, decide_eq_true_eq] at h ⊢
    exact ⟨⟨by omega, h.1.2⟩, h.2⟩

/-- Reading the cell just written gives the value written. -/
theorem Memory.read_write_same {m : Memory} {lo : Nat} (h : Memory.wfFrom lo m = true) (k : Nat) (v : Word) :
    (m.write k v).read k = v := by
  induction m generalizing lo with
  | nil => unfold Memory.write; split <;> simp_all [Memory.read]
  | cons c m ih =>
    obtain ⟨a, w⟩ := c
    simp only [Memory.wfFrom, Bool.and_eq_true, decide_eq_true_eq] at h
    unfold Memory.write
    split
    · split
      · rename_i hk hv
        rw [Memory.read, if_neg (by omega), Memory.read_of_wfFrom h.2 (by omega), hv]
      · simp [Memory.read]
    · split
      · split
        · rename_i hv
          rw [Memory.read_of_wfFrom h.2 (by omega), hv]
        · simp [Memory.read]
      · rename_i hk
        rw [Memory.read, if_neg hk]
        exact ih h.2

/-- A write leaves every other cell alone. -/
theorem Memory.read_write_ne (m : Memory) {k j : Nat} (v : Word) (h : j ≠ k) :
    (m.write k v).read j = m.read j := by
  induction m with
  | nil =>
    unfold Memory.write; split
    · rfl
    · simp [Memory.read, h]
  | cons c m ih =>
    obtain ⟨a, w⟩ := c
    unfold Memory.write
    split
    · split
      · rfl
      · rw [Memory.read, if_neg h]
    · split
      · rename_i hk
        split
        · rw [Memory.read, if_neg (by omega)]
        · rw [Memory.read, if_neg h, Memory.read, if_neg (by omega)]
      · simp only [Memory.read, ih]

/-- What a read sees after a write, in one line. -/
theorem Memory.read_write {m : Memory} (h : m.wf = true) (k j : Nat) (v : Word) :
    (m.write k v).read j = if j = k then v else m.read j := by
  split
  · rename_i e; subst e; exact Memory.read_write_same h _ _
  · rename_i e; exact Memory.read_write_ne m v e

theorem Memory.wfFrom_write {m : Memory} {lo k : Nat} (h : Memory.wfFrom lo m = true) (hk : lo ≤ k)
    (v : Word) : Memory.wfFrom lo (m.write k v) = true := by
  induction m generalizing lo with
  | nil => unfold Memory.write; split <;> simp_all [Memory.wfFrom]
  | cons c m ih =>
    obtain ⟨a, w⟩ := c
    have h0 := h
    simp only [Memory.wfFrom, Bool.and_eq_true, decide_eq_true_eq] at h
    unfold Memory.write
    split
    · split
      · exact h0
      · rename_i hlt hv
        simp only [Memory.wfFrom, Bool.and_eq_true, decide_eq_true_eq]
        exact ⟨⟨hk, hv⟩, ⟨by omega, h.1.2⟩, h.2⟩
    · split
      · rename_i hka
        split
        · exact Memory.wfFrom_mono h.2 (by omega)
        · rename_i hv
          simp only [Memory.wfFrom, Bool.and_eq_true, decide_eq_true_eq]
          exact ⟨⟨hk, hv⟩, by rw [hka]; exact h.2⟩
      · simp only [Memory.wfFrom, Bool.and_eq_true, decide_eq_true_eq]
        exact ⟨h.1, ih h.2 (by omega)⟩

/-- A write keeps the canonical form. -/
@[simp] theorem Memory.wf_write {m : Memory} (h : m.wf = true) (k : Nat) (v : Word) :
    (m.write k v).wf = true :=
  Memory.wfFrom_write h (Nat.zero_le k) v

/-- A listed cell after a write was listed before or is the one written. -/
theorem Memory.mem_write {m : Memory} {k : Nat} {v : Word} {c : Nat × Word} (h : c ∈ m.write k v) :
    c ∈ m ∨ c.1 = k := by
  induction m with
  | nil => unfold Memory.write at h; split at h <;> simp_all
  | cons d m ih =>
    obtain ⟨a, w⟩ := d
    unfold Memory.write at h
    split at h
    · split at h
      · exact .inl h
      · rcases List.mem_cons.mp h with rfl | h
        · exact .inr rfl
        · exact .inl h
    · split at h
      · split at h
        · exact .inl (List.mem_cons_of_mem _ h)
        · rcases List.mem_cons.mp h with rfl | h
          · exact .inr rfl
          · exact .inl (List.mem_cons_of_mem _ h)
      · rcases List.mem_cons.mp h with rfl | h
        · exact .inl List.mem_cons_self
        · exact (ih h).imp (List.mem_cons_of_mem _) id

/-- A write inside the store stays inside it. -/
theorem Memory.below_write {m : Memory} {n k : Nat} (h : m.below n = true) (hk : k < n) (v : Word) :
    (m.write k v).below n = true := by
  rw [Memory.below, List.all_eq_true] at h ⊢
  intro c hc
  rcases Memory.mem_write hc with hc | hc
  · exact h c hc
  · simpa [hc] using hk

/-- Two canonical stores that read alike are equal data. -/
theorem Memory.ext_of_wfFrom {m m' : Memory} {lo : Nat} (h : Memory.wfFrom lo m = true)
    (h' : Memory.wfFrom lo m' = true) (e : ∀ k, m.read k = m'.read k) : m = m' := by
  induction m generalizing lo m' with
  | nil =>
    cases m' with
    | nil => rfl
    | cons c m' =>
      obtain ⟨a, w⟩ := c
      simp only [Memory.wfFrom, Bool.and_eq_true, decide_eq_true_eq] at h'
      exact absurd (by simpa [Memory.read] using (e a).symm) h'.1.2
  | cons c m ih =>
    obtain ⟨a, w⟩ := c
    simp only [Memory.wfFrom, Bool.and_eq_true, decide_eq_true_eq] at h
    cases m' with
    | nil => exact absurd (by simpa [Memory.read] using e a) h.1.2
    | cons c' m' =>
      obtain ⟨a', w'⟩ := c'
      simp only [Memory.wfFrom, Bool.and_eq_true, decide_eq_true_eq] at h'
      have haa : a = a' := by
        rcases Nat.lt_trichotomy a a' with hlt | heq | hgt
        · exfalso
          have := e a
          rw [Memory.read, if_pos rfl, Memory.read, if_neg (by omega),
            Memory.read_of_wfFrom h'.2 (by omega)] at this
          exact h.1.2 this
        · exact heq
        · exfalso
          have := e a'
          rw [Memory.read, if_neg (by omega), Memory.read, if_pos rfl,
            Memory.read_of_wfFrom h.2 (by omega)] at this
          exact h'.1.2 this.symm
      subst haa
      have hww : w = w' := by simpa [Memory.read] using e a
      subst hww
      refine congrArg _ (ih h.2 h'.2 fun k => ?_)
      by_cases hk : k = a
      · rw [hk, Memory.read_of_wfFrom h.2 (by omega), Memory.read_of_wfFrom h'.2 (by omega)]
      · simpa [Memory.read, hk] using e k

/-! ### Folds of writes -/

/-- A fold of writes keeps the canonical form and the bound, if every index is inside it. -/
theorem Memory.foldl_write_good {ι : Type} {n : Nat} (idx : ι → Nat) (val : Memory → ι → Word)
    (is : List ι) {m : Memory} (hidx : ∀ i ∈ is, idx i < n) (hw : m.wf = true) (hb : m.below n = true) :
    ((is.foldl (fun a i => a.write (idx i) (val a i)) m).wf = true) ∧
    ((is.foldl (fun a i => a.write (idx i) (val a i)) m).below n = true) := by
  induction is generalizing m with
  | nil => exact ⟨hw, hb⟩
  | cons i is ih =>
    exact ih (fun j hj => hidx j (List.mem_cons_of_mem i hj)) (Memory.wf_write hw _ _)
      (Memory.below_write hb (hidx i List.mem_cons_self) _)

/-- A fold of writes leaves every cell alone that is none of its indices. -/
theorem Memory.read_foldl_write_ne {ι : Type} (idx : ι → Nat) (val : Memory → ι → Word) (is : List ι)
    (m : Memory) {k : Nat} (h : ∀ i ∈ is, k ≠ idx i) :
    (is.foldl (fun a i => a.write (idx i) (val a i)) m).read k = m.read k := by
  induction is generalizing m with
  | nil => rfl
  | cons i is ih =>
    rw [List.foldl_cons, ih _ fun j hj => h j (List.mem_cons_of_mem i hj)]
    exact Memory.read_write_ne m _ (h i List.mem_cons_self)

/-- `writeWrapped` keeps the canonical form. -/
theorem Memory.writeWrapped_wf (n : Nat) {m : Memory} (k : Nat) (ws : List Word) (h : m.wf = true) :
    (Memory.writeWrapped n m k ws).wf = true := by
  induction ws generalizing m k with
  | nil => exact h
  | cons w ws ih => exact ih (k + 1) (Memory.wf_write h _ _)

/-- `writeWrapped` stays inside the store. -/
theorem Memory.writeWrapped_below {n : Nat} (hn : 0 < n) {m : Memory} (k : Nat) (ws : List Word)
    (h : m.below n = true) : (Memory.writeWrapped n m k ws).below n = true := by
  induction ws generalizing m k with
  | nil => exact h
  | cons w ws ih => exact ih (k + 1) (Memory.below_write h (Nat.mod_lt k hn) _)

/-- `writeWrapped` leaves every cell alone that is none of its indices. -/
theorem Memory.read_writeWrapped_ne (n : Nat) (m : Memory) (k : Nat) (ws : List Word) {j : Nat}
    (h : ∀ i < ws.length, j ≠ (k + i) % n) : (Memory.writeWrapped n m k ws).read j = m.read j := by
  induction ws generalizing m k with
  | nil => rfl
  | cons w ws ih =>
    rw [Memory.writeWrapped, ih _ (k + 1) fun i hi => by
      have := h (i + 1) (by simpa using hi)
      rwa [Nat.add_assoc, Nat.add_comm 1 i]]
    exact Memory.read_write_ne m _ (by simpa using h 0 (by simp))

end Sys2Proof.Machine
end

