-- ==== Sys2Proof/Laws/State.lean ====
section
/-! SUPPORT. One lemma for each field of `State` under each named update, so that no proof unfolds a record
update. -/

namespace Sys2Proof.Machine

/-! ### `writeReg` -/

@[simp] theorem writeReg_live (s : State) (r : Fin 16) (v : Word) : (writeReg s r v).live = s.live := rfl
@[simp] theorem writeReg_params (s : State) (r : Fin 16) (v : Word) : (writeReg s r v).params = s.params := rfl
@[simp] theorem writeReg_dma (s : State) (r : Fin 16) (v : Word) : (writeReg s r v).dma = s.dma.set r.val v r.isLt := rfl
@[simp] theorem writeReg_irq (s : State) (r : Fin 16) (v : Word) : (writeReg s r v).irq = s.irq := rfl
@[simp] theorem writeReg_timers (s : State) (r : Fin 16) (v : Word) : (writeReg s r v).timers = s.timers := rfl
@[simp] theorem writeReg_ctrl (s : State) (r : Fin 16) (v : Word) : (writeReg s r v).ctrl = s.ctrl := rfl
@[simp] theorem writeReg_bankSelect (s : State) (r : Fin 16) (v : Word) : (writeReg s r v).bankSelect = s.bankSelect := rfl
@[simp] theorem writeReg_autoeraseEn (s : State) (r : Fin 16) (v : Word) : (writeReg s r v).autoeraseEn = s.autoeraseEn := rfl
@[simp] theorem writeReg_cmosPage (s : State) (r : Fin 16) (v : Word) : (writeReg s r v).cmosPage = s.cmosPage := rfl
@[simp] theorem writeReg_cmosWe (s : State) (r : Fin 16) (v : Word) : (writeReg s r v).cmosWe = s.cmosWe := rfl
@[simp] theorem writeReg_vram (s : State) (r : Fin 16) (v : Word) : (writeReg s r v).vram = s.vram := rfl
@[simp] theorem writeReg_shadow (s : State) (r : Fin 16) (v : Word) : (writeReg s r v).shadow = s.shadow := rfl
@[simp] theorem writeReg_palram (s : State) (r : Fin 16) (v : Word) : (writeReg s r v).palram = s.palram := rfl
@[simp] theorem writeReg_cmos (s : State) (r : Fin 16) (v : Word) : (writeReg s r v).cmos = s.cmos := rfl
@[simp] theorem writeReg_nextLine (s : State) (r : Fin 16) (v : Word) : (writeReg s r v).nextLine = s.nextLine := rfl
@[simp] theorem writeReg_eraseNext (s : State) (r : Fin 16) (v : Word) : (writeReg s r v).eraseNext = s.eraseNext := rfl
@[simp] theorem writeReg_eraseDeferred (s : State) (r : Fin 16) (v : Word) : (writeReg s r v).eraseDeferred = s.eraseDeferred := rfl
@[simp] theorem writeReg_p1Cursor (s : State) (r : Fin 16) (v : Word) : (writeReg s r v).p1Cursor = s.p1Cursor := rfl
@[simp] theorem writeReg_p2Latch (s : State) (r : Fin 16) (v : Word) : (writeReg s r v).p2Latch = s.p2Latch := rfl
@[simp] theorem writeReg_p3Queue (s : State) (r : Fin 16) (v : Word) : (writeReg s r v).p3Queue = s.p3Queue := rfl
@[simp] theorem writeReg_p3Cursor (s : State) (r : Fin 16) (v : Word) : (writeReg s r v).p3Cursor = s.p3Cursor := rfl
@[simp] theorem writeReg_p4Fifo (s : State) (r : Fin 16) (v : Word) : (writeReg s r v).p4Fifo = s.p4Fifo := rfl
@[simp] theorem writeReg_p4Cursor (s : State) (r : Fin 16) (v : Word) : (writeReg s r v).p4Cursor = s.p4Cursor := rfl
@[simp] theorem writeReg_p4Result (s : State) (r : Fin 16) (v : Word) : (writeReg s r v).p4Result = s.p4Result := rfl
@[simp] theorem writeReg_p5Cursor (s : State) (r : Fin 16) (v : Word) : (writeReg s r v).p5Cursor = s.p5Cursor := rfl
@[simp] theorem writeReg_p5Latch (s : State) (r : Fin 16) (v : Word) : (writeReg s r v).p5Latch = s.p5Latch := rfl
@[simp] theorem writeReg_serialStatus (s : State) (r : Fin 16) (v : Word) : (writeReg s r v).serialStatus = s.serialStatus := rfl
@[simp] theorem writeReg_pending (s : State) (r : Fin 16) (v : Word) : (writeReg s r v).pending = s.pending := rfl
@[simp] theorem writeReg_out (s : State) (r : Fin 16) (v : Word) : (writeReg s r v).out = s.out := rfl

/-! ### `setOut` -/

@[simp] theorem setOut_live (s : State) (o : Option Output) : (setOut s o).live = s.live := rfl
@[simp] theorem setOut_params (s : State) (o : Option Output) : (setOut s o).params = s.params := rfl
@[simp] theorem setOut_dma (s : State) (o : Option Output) : (setOut s o).dma = s.dma := rfl
@[simp] theorem setOut_irq (s : State) (o : Option Output) : (setOut s o).irq = s.irq := rfl
@[simp] theorem setOut_timers (s : State) (o : Option Output) : (setOut s o).timers = s.timers := rfl
@[simp] theorem setOut_ctrl (s : State) (o : Option Output) : (setOut s o).ctrl = s.ctrl := rfl
@[simp] theorem setOut_bankSelect (s : State) (o : Option Output) : (setOut s o).bankSelect = s.bankSelect := rfl
@[simp] theorem setOut_autoeraseEn (s : State) (o : Option Output) : (setOut s o).autoeraseEn = s.autoeraseEn := rfl
@[simp] theorem setOut_cmosPage (s : State) (o : Option Output) : (setOut s o).cmosPage = s.cmosPage := rfl
@[simp] theorem setOut_cmosWe (s : State) (o : Option Output) : (setOut s o).cmosWe = s.cmosWe := rfl
@[simp] theorem setOut_vram (s : State) (o : Option Output) : (setOut s o).vram = s.vram := rfl
@[simp] theorem setOut_shadow (s : State) (o : Option Output) : (setOut s o).shadow = s.shadow := rfl
@[simp] theorem setOut_palram (s : State) (o : Option Output) : (setOut s o).palram = s.palram := rfl
@[simp] theorem setOut_cmos (s : State) (o : Option Output) : (setOut s o).cmos = s.cmos := rfl
@[simp] theorem setOut_nextLine (s : State) (o : Option Output) : (setOut s o).nextLine = s.nextLine := rfl
@[simp] theorem setOut_eraseNext (s : State) (o : Option Output) : (setOut s o).eraseNext = s.eraseNext := rfl
@[simp] theorem setOut_eraseDeferred (s : State) (o : Option Output) : (setOut s o).eraseDeferred = s.eraseDeferred := rfl
@[simp] theorem setOut_p1Cursor (s : State) (o : Option Output) : (setOut s o).p1Cursor = s.p1Cursor := rfl
@[simp] theorem setOut_p2Latch (s : State) (o : Option Output) : (setOut s o).p2Latch = s.p2Latch := rfl
@[simp] theorem setOut_p3Queue (s : State) (o : Option Output) : (setOut s o).p3Queue = s.p3Queue := rfl
@[simp] theorem setOut_p3Cursor (s : State) (o : Option Output) : (setOut s o).p3Cursor = s.p3Cursor := rfl
@[simp] theorem setOut_p4Fifo (s : State) (o : Option Output) : (setOut s o).p4Fifo = s.p4Fifo := rfl
@[simp] theorem setOut_p4Cursor (s : State) (o : Option Output) : (setOut s o).p4Cursor = s.p4Cursor := rfl
@[simp] theorem setOut_p4Result (s : State) (o : Option Output) : (setOut s o).p4Result = s.p4Result := rfl
@[simp] theorem setOut_p5Cursor (s : State) (o : Option Output) : (setOut s o).p5Cursor = s.p5Cursor := rfl
@[simp] theorem setOut_p5Latch (s : State) (o : Option Output) : (setOut s o).p5Latch = s.p5Latch := rfl
@[simp] theorem setOut_serialStatus (s : State) (o : Option Output) : (setOut s o).serialStatus = s.serialStatus := rfl
@[simp] theorem setOut_pending (s : State) (o : Option Output) : (setOut s o).pending = s.pending := rfl
@[simp] theorem setOut_out (s : State) (o : Option Output) : (setOut s o).out = o := rfl

/-! ### `answer` -/

@[simp] theorem answer_live (s : State) (v : Word) : (answer s v).live = s.live := rfl
@[simp] theorem answer_params (s : State) (v : Word) : (answer s v).params = s.params := rfl
@[simp] theorem answer_dma (s : State) (v : Word) : (answer s v).dma = s.dma := rfl
@[simp] theorem answer_irq (s : State) (v : Word) : (answer s v).irq = s.irq := rfl
@[simp] theorem answer_timers (s : State) (v : Word) : (answer s v).timers = s.timers := rfl
@[simp] theorem answer_ctrl (s : State) (v : Word) : (answer s v).ctrl = s.ctrl := rfl
@[simp] theorem answer_bankSelect (s : State) (v : Word) : (answer s v).bankSelect = s.bankSelect := rfl
@[simp] theorem answer_autoeraseEn (s : State) (v : Word) : (answer s v).autoeraseEn = s.autoeraseEn := rfl
@[simp] theorem answer_cmosPage (s : State) (v : Word) : (answer s v).cmosPage = s.cmosPage := rfl
@[simp] theorem answer_cmosWe (s : State) (v : Word) : (answer s v).cmosWe = s.cmosWe := rfl
@[simp] theorem answer_vram (s : State) (v : Word) : (answer s v).vram = s.vram := rfl
@[simp] theorem answer_shadow (s : State) (v : Word) : (answer s v).shadow = s.shadow := rfl
@[simp] theorem answer_palram (s : State) (v : Word) : (answer s v).palram = s.palram := rfl
@[simp] theorem answer_cmos (s : State) (v : Word) : (answer s v).cmos = s.cmos := rfl
@[simp] theorem answer_nextLine (s : State) (v : Word) : (answer s v).nextLine = s.nextLine := rfl
@[simp] theorem answer_eraseNext (s : State) (v : Word) : (answer s v).eraseNext = s.eraseNext := rfl
@[simp] theorem answer_eraseDeferred (s : State) (v : Word) : (answer s v).eraseDeferred = s.eraseDeferred := rfl
@[simp] theorem answer_p1Cursor (s : State) (v : Word) : (answer s v).p1Cursor = s.p1Cursor := rfl
@[simp] theorem answer_p2Latch (s : State) (v : Word) : (answer s v).p2Latch = s.p2Latch := rfl
@[simp] theorem answer_p3Queue (s : State) (v : Word) : (answer s v).p3Queue = s.p3Queue := rfl
@[simp] theorem answer_p3Cursor (s : State) (v : Word) : (answer s v).p3Cursor = s.p3Cursor := rfl
@[simp] theorem answer_p4Fifo (s : State) (v : Word) : (answer s v).p4Fifo = s.p4Fifo := rfl
@[simp] theorem answer_p4Cursor (s : State) (v : Word) : (answer s v).p4Cursor = s.p4Cursor := rfl
@[simp] theorem answer_p4Result (s : State) (v : Word) : (answer s v).p4Result = s.p4Result := rfl
@[simp] theorem answer_p5Cursor (s : State) (v : Word) : (answer s v).p5Cursor = s.p5Cursor := rfl
@[simp] theorem answer_p5Latch (s : State) (v : Word) : (answer s v).p5Latch = s.p5Latch := rfl
@[simp] theorem answer_serialStatus (s : State) (v : Word) : (answer s v).serialStatus = s.serialStatus := rfl
@[simp] theorem answer_pending (s : State) (v : Word) : (answer s v).pending = s.pending := rfl
@[simp] theorem answer_out (s : State) (v : Word) : (answer s v).out = some (.word v) := rfl

/-! ### `acknowledge` -/

@[simp] theorem acknowledge_live (s : State) : (acknowledge s).live = s.live := rfl
@[simp] theorem acknowledge_params (s : State) : (acknowledge s).params = s.params := rfl
@[simp] theorem acknowledge_dma (s : State) : (acknowledge s).dma = s.dma := rfl
@[simp] theorem acknowledge_irq (s : State) : (acknowledge s).irq = false := rfl
@[simp] theorem acknowledge_timers (s : State) : (acknowledge s).timers = s.timers := rfl
@[simp] theorem acknowledge_ctrl (s : State) : (acknowledge s).ctrl = s.ctrl := rfl
@[simp] theorem acknowledge_bankSelect (s : State) : (acknowledge s).bankSelect = s.bankSelect := rfl
@[simp] theorem acknowledge_autoeraseEn (s : State) : (acknowledge s).autoeraseEn = s.autoeraseEn := rfl
@[simp] theorem acknowledge_cmosPage (s : State) : (acknowledge s).cmosPage = s.cmosPage := rfl
@[simp] theorem acknowledge_cmosWe (s : State) : (acknowledge s).cmosWe = s.cmosWe := rfl
@[simp] theorem acknowledge_vram (s : State) : (acknowledge s).vram = s.vram := rfl
@[simp] theorem acknowledge_shadow (s : State) : (acknowledge s).shadow = s.shadow := rfl
@[simp] theorem acknowledge_palram (s : State) : (acknowledge s).palram = s.palram := rfl
@[simp] theorem acknowledge_cmos (s : State) : (acknowledge s).cmos = s.cmos := rfl
@[simp] theorem acknowledge_nextLine (s : State) : (acknowledge s).nextLine = s.nextLine := rfl
@[simp] theorem acknowledge_eraseNext (s : State) : (acknowledge s).eraseNext = s.eraseNext := rfl
@[simp] theorem acknowledge_eraseDeferred (s : State) : (acknowledge s).eraseDeferred = s.eraseDeferred := rfl
@[simp] theorem acknowledge_p1Cursor (s : State) : (acknowledge s).p1Cursor = s.p1Cursor := rfl
@[simp] theorem acknowledge_p2Latch (s : State) : (acknowledge s).p2Latch = s.p2Latch := rfl
@[simp] theorem acknowledge_p3Queue (s : State) : (acknowledge s).p3Queue = s.p3Queue := rfl
@[simp] theorem acknowledge_p3Cursor (s : State) : (acknowledge s).p3Cursor = s.p3Cursor := rfl
@[simp] theorem acknowledge_p4Fifo (s : State) : (acknowledge s).p4Fifo = s.p4Fifo := rfl
@[simp] theorem acknowledge_p4Cursor (s : State) : (acknowledge s).p4Cursor = s.p4Cursor := rfl
@[simp] theorem acknowledge_p4Result (s : State) : (acknowledge s).p4Result = s.p4Result := rfl
@[simp] theorem acknowledge_p5Cursor (s : State) : (acknowledge s).p5Cursor = s.p5Cursor := rfl
@[simp] theorem acknowledge_p5Latch (s : State) : (acknowledge s).p5Latch = s.p5Latch := rfl
@[simp] theorem acknowledge_serialStatus (s : State) : (acknowledge s).serialStatus = s.serialStatus := rfl
@[simp] theorem acknowledge_pending (s : State) : (acknowledge s).pending = s.pending := rfl
@[simp] theorem acknowledge_out (s : State) : (acknowledge s).out = s.out := rfl

/-! ### `latchCommand` -/

@[simp] theorem latchCommand_live (s : State) (c : Word) : (latchCommand c s).live = s.live := rfl
@[simp] theorem latchCommand_params (s : State) (c : Word) : (latchCommand c s).params = s.params := rfl
@[simp] theorem latchCommand_dma (s : State) (c : Word) : (latchCommand c s).dma = s.dma.set 14 c := rfl
@[simp] theorem latchCommand_irq (s : State) (c : Word) : (latchCommand c s).irq = false := rfl
@[simp] theorem latchCommand_timers (s : State) (c : Word) : (latchCommand c s).timers = s.timers := rfl
@[simp] theorem latchCommand_ctrl (s : State) (c : Word) : (latchCommand c s).ctrl = s.ctrl := rfl
@[simp] theorem latchCommand_bankSelect (s : State) (c : Word) : (latchCommand c s).bankSelect = s.bankSelect := rfl
@[simp] theorem latchCommand_autoeraseEn (s : State) (c : Word) : (latchCommand c s).autoeraseEn = s.autoeraseEn := rfl
@[simp] theorem latchCommand_cmosPage (s : State) (c : Word) : (latchCommand c s).cmosPage = s.cmosPage := rfl
@[simp] theorem latchCommand_cmosWe (s : State) (c : Word) : (latchCommand c s).cmosWe = s.cmosWe := rfl
@[simp] theorem latchCommand_vram (s : State) (c : Word) : (latchCommand c s).vram = s.vram := rfl
@[simp] theorem latchCommand_shadow (s : State) (c : Word) : (latchCommand c s).shadow = s.shadow := rfl
@[simp] theorem latchCommand_palram (s : State) (c : Word) : (latchCommand c s).palram = s.palram := rfl
@[simp] theorem latchCommand_cmos (s : State) (c : Word) : (latchCommand c s).cmos = s.cmos := rfl
@[simp] theorem latchCommand_nextLine (s : State) (c : Word) : (latchCommand c s).nextLine = s.nextLine := rfl
@[simp] theorem latchCommand_eraseNext (s : State) (c : Word) : (latchCommand c s).eraseNext = s.eraseNext := rfl
@[simp] theorem latchCommand_eraseDeferred (s : State) (c : Word) : (latchCommand c s).eraseDeferred = s.eraseDeferred := rfl
@[simp] theorem latchCommand_p1Cursor (s : State) (c : Word) : (latchCommand c s).p1Cursor = s.p1Cursor := rfl
@[simp] theorem latchCommand_p2Latch (s : State) (c : Word) : (latchCommand c s).p2Latch = s.p2Latch := rfl
@[simp] theorem latchCommand_p3Queue (s : State) (c : Word) : (latchCommand c s).p3Queue = s.p3Queue := rfl
@[simp] theorem latchCommand_p3Cursor (s : State) (c : Word) : (latchCommand c s).p3Cursor = s.p3Cursor := rfl
@[simp] theorem latchCommand_p4Fifo (s : State) (c : Word) : (latchCommand c s).p4Fifo = s.p4Fifo := rfl
@[simp] theorem latchCommand_p4Cursor (s : State) (c : Word) : (latchCommand c s).p4Cursor = s.p4Cursor := rfl
@[simp] theorem latchCommand_p4Result (s : State) (c : Word) : (latchCommand c s).p4Result = s.p4Result := rfl
@[simp] theorem latchCommand_p5Cursor (s : State) (c : Word) : (latchCommand c s).p5Cursor = s.p5Cursor := rfl
@[simp] theorem latchCommand_p5Latch (s : State) (c : Word) : (latchCommand c s).p5Latch = s.p5Latch := rfl
@[simp] theorem latchCommand_serialStatus (s : State) (c : Word) : (latchCommand c s).serialStatus = s.serialStatus := rfl
@[simp] theorem latchCommand_pending (s : State) (c : Word) : (latchCommand c s).pending = s.pending := rfl
@[simp] theorem latchCommand_out (s : State) (c : Word) : (latchCommand c s).out = s.out := rfl

/-! ### `done` -/

@[simp] theorem done_live (s : State) : (done s).live = s.live := rfl
@[simp] theorem done_params (s : State) : (done s).params = s.params := rfl
@[simp] theorem done_dma (s : State) : (done s).dma = s.dma.set 14 (s.dma[14] &&& 0x7FFF#16) := rfl
@[simp] theorem done_irq (s : State) : (done s).irq = true := rfl
@[simp] theorem done_timers (s : State) : (done s).timers = (if s.params.fastDma then s.timers else s.timers - 1) := rfl
@[simp] theorem done_ctrl (s : State) : (done s).ctrl = s.ctrl := rfl
@[simp] theorem done_bankSelect (s : State) : (done s).bankSelect = s.bankSelect := rfl
@[simp] theorem done_autoeraseEn (s : State) : (done s).autoeraseEn = s.autoeraseEn := rfl
@[simp] theorem done_cmosPage (s : State) : (done s).cmosPage = s.cmosPage := rfl
@[simp] theorem done_cmosWe (s : State) : (done s).cmosWe = s.cmosWe := rfl
@[simp] theorem done_vram (s : State) : (done s).vram = s.vram := rfl
@[simp] theorem done_shadow (s : State) : (done s).shadow = s.shadow := rfl
@[simp] theorem done_palram (s : State) : (done s).palram = s.palram := rfl
@[simp] theorem done_cmos (s : State) : (done s).cmos = s.cmos := rfl
@[simp] theorem done_nextLine (s : State) : (done s).nextLine = s.nextLine := rfl
@[simp] theorem done_eraseNext (s : State) : (done s).eraseNext = s.eraseNext := rfl
@[simp] theorem done_eraseDeferred (s : State) : (done s).eraseDeferred = s.eraseDeferred := rfl
@[simp] theorem done_p1Cursor (s : State) : (done s).p1Cursor = s.p1Cursor := rfl
@[simp] theorem done_p2Latch (s : State) : (done s).p2Latch = s.p2Latch := rfl
@[simp] theorem done_p3Queue (s : State) : (done s).p3Queue = s.p3Queue := rfl
@[simp] theorem done_p3Cursor (s : State) : (done s).p3Cursor = s.p3Cursor := rfl
@[simp] theorem done_p4Fifo (s : State) : (done s).p4Fifo = s.p4Fifo := rfl
@[simp] theorem done_p4Cursor (s : State) : (done s).p4Cursor = s.p4Cursor := rfl
@[simp] theorem done_p4Result (s : State) : (done s).p4Result = s.p4Result := rfl
@[simp] theorem done_p5Cursor (s : State) : (done s).p5Cursor = s.p5Cursor := rfl
@[simp] theorem done_p5Latch (s : State) : (done s).p5Latch = s.p5Latch := rfl
@[simp] theorem done_serialStatus (s : State) : (done s).serialStatus = s.serialStatus := rfl
@[simp] theorem done_pending (s : State) : (done s).pending = s.pending := rfl
@[simp] theorem done_out (s : State) : (done s).out = s.out := rfl

/-! ### `writeControl` -/

@[simp] theorem writeControl_live (s : State) (c : Word) : (writeControl s c).live = s.live := rfl
@[simp] theorem writeControl_params (s : State) (c : Word) : (writeControl s c).params = s.params := rfl
@[simp] theorem writeControl_dma (s : State) (c : Word) : (writeControl s c).dma = s.dma := rfl
@[simp] theorem writeControl_irq (s : State) (c : Word) : (writeControl s c).irq = s.irq := rfl
@[simp] theorem writeControl_timers (s : State) (c : Word) : (writeControl s c).timers = s.timers := rfl
@[simp] theorem writeControl_ctrl (s : State) (c : Word) : (writeControl s c).ctrl = c := rfl
@[simp] theorem writeControl_bankSelect (s : State) (c : Word) : (writeControl s c).bankSelect = bankOf s.params c := rfl
@[simp] theorem writeControl_autoeraseEn (s : State) (c : Word) : (writeControl s c).autoeraseEn = autoeraseOf c := rfl
@[simp] theorem writeControl_cmosPage (s : State) (c : Word) : (writeControl s c).cmosPage = (if isYZ s.params then pageOf s.params c else s.cmosPage) := rfl
@[simp] theorem writeControl_cmosWe (s : State) (c : Word) : (writeControl s c).cmosWe = s.cmosWe := rfl
@[simp] theorem writeControl_vram (s : State) (c : Word) : (writeControl s c).vram = s.vram := rfl
@[simp] theorem writeControl_shadow (s : State) (c : Word) : (writeControl s c).shadow = s.shadow := rfl
@[simp] theorem writeControl_palram (s : State) (c : Word) : (writeControl s c).palram = s.palram := rfl
@[simp] theorem writeControl_cmos (s : State) (c : Word) : (writeControl s c).cmos = s.cmos := rfl
@[simp] theorem writeControl_nextLine (s : State) (c : Word) : (writeControl s c).nextLine = s.nextLine := rfl
@[simp] theorem writeControl_eraseNext (s : State) (c : Word) : (writeControl s c).eraseNext = s.eraseNext := rfl
@[simp] theorem writeControl_eraseDeferred (s : State) (c : Word) : (writeControl s c).eraseDeferred = s.eraseDeferred := rfl
@[simp] theorem writeControl_p1Cursor (s : State) (c : Word) : (writeControl s c).p1Cursor = s.p1Cursor := rfl
@[simp] theorem writeControl_p2Latch (s : State) (c : Word) : (writeControl s c).p2Latch = s.p2Latch := rfl
@[simp] theorem writeControl_p3Queue (s : State) (c : Word) : (writeControl s c).p3Queue = s.p3Queue := rfl
@[simp] theorem writeControl_p3Cursor (s : State) (c : Word) : (writeControl s c).p3Cursor = s.p3Cursor := rfl
@[simp] theorem writeControl_p4Fifo (s : State) (c : Word) : (writeControl s c).p4Fifo = s.p4Fifo := rfl
@[simp] theorem writeControl_p4Cursor (s : State) (c : Word) : (writeControl s c).p4Cursor = s.p4Cursor := rfl
@[simp] theorem writeControl_p4Result (s : State) (c : Word) : (writeControl s c).p4Result = s.p4Result := rfl
@[simp] theorem writeControl_p5Cursor (s : State) (c : Word) : (writeControl s c).p5Cursor = s.p5Cursor := rfl
@[simp] theorem writeControl_p5Latch (s : State) (c : Word) : (writeControl s c).p5Latch = s.p5Latch := rfl
@[simp] theorem writeControl_serialStatus (s : State) (c : Word) : (writeControl s c).serialStatus = s.serialStatus := rfl
@[simp] theorem writeControl_pending (s : State) (c : Word) : (writeControl s c).pending = s.pending := rfl
@[simp] theorem writeControl_out (s : State) (c : Word) : (writeControl s c).out = s.out := rfl

/-! ### `retire` -/

@[simp] theorem retire_live (s : State) : (retire s).live = s.live := rfl
@[simp] theorem retire_params (s : State) : (retire s).params = s.params := rfl
@[simp] theorem retire_dma (s : State) : (retire s).dma = s.dma := rfl
@[simp] theorem retire_irq (s : State) : (retire s).irq = s.irq := rfl
@[simp] theorem retire_timers (s : State) : (retire s).timers = s.timers := rfl
@[simp] theorem retire_ctrl (s : State) : (retire s).ctrl = s.ctrl := rfl
@[simp] theorem retire_bankSelect (s : State) : (retire s).bankSelect = s.bankSelect := rfl
@[simp] theorem retire_autoeraseEn (s : State) : (retire s).autoeraseEn = s.autoeraseEn := rfl
@[simp] theorem retire_cmosPage (s : State) : (retire s).cmosPage = s.cmosPage := rfl
@[simp] theorem retire_cmosWe (s : State) : (retire s).cmosWe = s.cmosWe := rfl
@[simp] theorem retire_vram (s : State) : (retire s).vram = s.vram := rfl
@[simp] theorem retire_shadow (s : State) : (retire s).shadow = s.shadow := rfl
@[simp] theorem retire_palram (s : State) : (retire s).palram = s.palram := rfl
@[simp] theorem retire_cmos (s : State) : (retire s).cmos = s.cmos := rfl
@[simp] theorem retire_nextLine (s : State) : (retire s).nextLine = s.nextLine := rfl
@[simp] theorem retire_eraseNext (s : State) : (retire s).eraseNext = s.eraseNext := rfl
@[simp] theorem retire_eraseDeferred (s : State) : (retire s).eraseDeferred = s.eraseDeferred := rfl
@[simp] theorem retire_p1Cursor (s : State) : (retire s).p1Cursor = s.p1Cursor := rfl
@[simp] theorem retire_p2Latch (s : State) : (retire s).p2Latch = s.p2Latch := rfl
@[simp] theorem retire_p3Queue (s : State) : (retire s).p3Queue = s.p3Queue := rfl
@[simp] theorem retire_p3Cursor (s : State) : (retire s).p3Cursor = s.p3Cursor := rfl
@[simp] theorem retire_p4Fifo (s : State) : (retire s).p4Fifo = s.p4Fifo := rfl
@[simp] theorem retire_p4Cursor (s : State) : (retire s).p4Cursor = s.p4Cursor := rfl
@[simp] theorem retire_p4Result (s : State) : (retire s).p4Result = s.p4Result := rfl
@[simp] theorem retire_p5Cursor (s : State) : (retire s).p5Cursor = s.p5Cursor := rfl
@[simp] theorem retire_p5Latch (s : State) : (retire s).p5Latch = s.p5Latch := rfl
@[simp] theorem retire_serialStatus (s : State) : (retire s).serialStatus = s.serialStatus := rfl
@[simp] theorem retire_pending (s : State) : (retire s).pending = s.pending.tail := rfl
@[simp] theorem retire_out (s : State) : (retire s).out = s.out := rfl

/-! ### `destroyContext` -/

@[simp] theorem destroyContext_live (s : State) : (destroyContext s).live = false := rfl
@[simp] theorem destroyContext_params (s : State) : (destroyContext s).params = s.params := rfl
@[simp] theorem destroyContext_dma (s : State) : (destroyContext s).dma = s.dma := rfl
@[simp] theorem destroyContext_irq (s : State) : (destroyContext s).irq = s.irq := rfl
@[simp] theorem destroyContext_timers (s : State) : (destroyContext s).timers = 0 := rfl
@[simp] theorem destroyContext_ctrl (s : State) : (destroyContext s).ctrl = s.ctrl := rfl
@[simp] theorem destroyContext_bankSelect (s : State) : (destroyContext s).bankSelect = s.bankSelect := rfl
@[simp] theorem destroyContext_autoeraseEn (s : State) : (destroyContext s).autoeraseEn = s.autoeraseEn := rfl
@[simp] theorem destroyContext_cmosPage (s : State) : (destroyContext s).cmosPage = s.cmosPage := rfl
@[simp] theorem destroyContext_cmosWe (s : State) : (destroyContext s).cmosWe = s.cmosWe := rfl
@[simp] theorem destroyContext_vram (s : State) : (destroyContext s).vram = s.vram := rfl
@[simp] theorem destroyContext_shadow (s : State) : (destroyContext s).shadow = s.shadow := rfl
@[simp] theorem destroyContext_palram (s : State) : (destroyContext s).palram = s.palram := rfl
@[simp] theorem destroyContext_cmos (s : State) : (destroyContext s).cmos = s.cmos := rfl
@[simp] theorem destroyContext_nextLine (s : State) : (destroyContext s).nextLine = s.nextLine := rfl
@[simp] theorem destroyContext_eraseNext (s : State) : (destroyContext s).eraseNext = s.eraseNext := rfl
@[simp] theorem destroyContext_eraseDeferred (s : State) : (destroyContext s).eraseDeferred = s.eraseDeferred := rfl
@[simp] theorem destroyContext_p1Cursor (s : State) : (destroyContext s).p1Cursor = s.p1Cursor := rfl
@[simp] theorem destroyContext_p2Latch (s : State) : (destroyContext s).p2Latch = s.p2Latch := rfl
@[simp] theorem destroyContext_p3Queue (s : State) : (destroyContext s).p3Queue = s.p3Queue := rfl
@[simp] theorem destroyContext_p3Cursor (s : State) : (destroyContext s).p3Cursor = s.p3Cursor := rfl
@[simp] theorem destroyContext_p4Fifo (s : State) : (destroyContext s).p4Fifo = s.p4Fifo := rfl
@[simp] theorem destroyContext_p4Cursor (s : State) : (destroyContext s).p4Cursor = s.p4Cursor := rfl
@[simp] theorem destroyContext_p4Result (s : State) : (destroyContext s).p4Result = s.p4Result := rfl
@[simp] theorem destroyContext_p5Cursor (s : State) : (destroyContext s).p5Cursor = s.p5Cursor := rfl
@[simp] theorem destroyContext_p5Latch (s : State) : (destroyContext s).p5Latch = s.p5Latch := rfl
@[simp] theorem destroyContext_serialStatus (s : State) : (destroyContext s).serialStatus = s.serialStatus := rfl
@[simp] theorem destroyContext_pending (s : State) : (destroyContext s).pending = s.pending := rfl
@[simp] theorem destroyContext_out (s : State) : (destroyContext s).out = s.out := rfl

/-! ### `conclude` -/

/-- A detach destroys the context (rule R302). -/
@[simp] theorem conclude_detach (s : State) : conclude (.event .detach) s = destroyContext s := rfl

/-- No other call does anything after its operation. -/
theorem conclude_of_ne {call : Call} (h : call ≠ .event .detach) (s : State) : conclude call s = s :=
  if_neg h

/-! ### Registers through their accessors -/

@[simp] theorem readReg_writeReg_same (s : State) (r : Fin 16) (v : Word) :
    readReg (writeReg s r v) r = v := by
  simp [readReg]

theorem readReg_writeReg_ne (s : State) {r q : Fin 16} (v : Word) (h : q ≠ r) :
    readReg (writeReg s r v) q = readReg s q := by
  have hv : r.val ≠ q.val := fun e => h (Fin.ext e.symm)
  simp [readReg, hv]

@[simp] theorem readReg_setOut (s : State) (o : Option Output) (r : Fin 16) :
    readReg (setOut s o) r = readReg s r := rfl

@[simp] theorem readReg_acknowledge (s : State) (r : Fin 16) :
    readReg (acknowledge s) r = readReg s r := rfl

@[simp] theorem readReg_latchCommand (c : Word) (s : State) :
    readReg (latchCommand c s) commandReg = c := by
  simp [readReg, commandReg]

theorem readReg_latchCommand_ne (c : Word) (s : State) {r : Fin 16} (h : r ≠ commandReg) :
    readReg (latchCommand c s) r = readReg s r :=
  readReg_writeReg_ne s c h

/-- Completion clears bit 15 of `COMMAND` and keeps bits 14:0 (rule R130). -/
@[simp] theorem readReg_done (s : State) :
    readReg (done s) commandReg = readReg s commandReg &&& 0x7FFF#16 := by
  simp [readReg, commandReg]

theorem readReg_done_ne (s : State) {r : Fin 16} (h : r ≠ commandReg) :
    readReg (done s) r = readReg s r :=
  readReg_writeReg_ne _ _ h

end Sys2Proof.Machine
end

