-- ==== Sys2Proof/Laws/Ops.lean ====
section
/-! SUPPORT. What each shared operation can do, said once: completion, rows, lines, lookup tables, the
CMOS blob and the draw. -/

namespace Sys2Proof.Machine

/-! ### Parameters -/

/-- What well-formed parameters give. -/
theorem Params.wf_iff (p : Params) : p.wf = true ↔
    0 < p.vramCells ∧ 0 < p.cmosPageWords ∧ 0 < p.palEntries ∧ p.visibleFirst ≤ p.visibleLast ∧
    lookupsInverse p = true ∧ ∀ c, p.chip = some c → c.wf = true ∧ c.family = p.family := by
  unfold Params.wf
  cases h : p.chip <;> simp [and_assoc]

/-- Outside the exceptions a parameter function is its default. -/
theorem withExceptions_of_not_mem {α β : Type} [DecidableEq α] {ex : List (α × β)} {d : β} {a : α}
    (h : a ∉ ex.map Prod.fst) : withExceptions ex d a = d := by
  induction ex with
  | nil => rfl
  | cons c ex ih =>
    obtain ⟨k, v⟩ := c
    simp only [List.map_cons, List.mem_cons, not_or] at h
    rw [withExceptions, if_neg (fun e => h.1 e.symm)]
    exact ih h.2

/-- `REV_LOOKUP[FWD_LOOKUP[v]] = v` for every `v` (rule R205). -/
theorem reverse_forward {p : Params} (h : lookupsInverse p = true) (v : Word) :
    reverseLookup p (forwardLookup p v) = v := by
  by_cases hv : v ∈ p.fwdLookup.map Prod.fst ++ p.revLookup.map Prod.fst
  · exact of_decide_eq_true (List.all_eq_true.mp h v hv)
  · rw [List.mem_append, not_or] at hv
    rw [forwardLookup, withExceptions_of_not_mem hv.1, reverseLookup, withExceptions_of_not_mem hv.2]

theorem cmosWords_pos {p : Params} (h : 0 < p.cmosPageWords) : 0 < cmosWords p := by
  unfold cmosWords cmosPages
  split <;> omega

theorem cellIndex_lt {p : Params} (h : 0 < p.vramCells) (row col : Nat) :
    cellIndex p row col < p.vramCells :=
  Nat.mod_lt _ h

/-- A clamped scanline is a visible line (rule R60). -/
theorem clampLine_visible {p : Params} (h : p.visibleFirst ≤ p.visibleLast) (s : Int) :
    p.visibleFirst ≤ clampLine p s ∧ clampLine p s ≤ p.visibleLast := by
  unfold clampLine
  split
  · omega
  · split <;> omega

/-! ### Completion -/

/-- When the completion event is enabled (rule R130). -/
theorem completionEnabled_iff (s : State) :
    completionEnabled s = true ↔ s.params.fastDma = false ∧ 0 < s.timers := by
  simp [completionEnabled, timerPending]

/-- `ScheduleCompletion` in fast mode is `Done()` (rule R128). -/
theorem scheduleCompletion_fast (n : Nat) {s : State} (h : s.params.fastDma = true) :
    scheduleCompletion n s = done s := by
  simp [scheduleCompletion, h]

/-- `ScheduleCompletion` in timer mode counts one more in-flight completion (rule R129). -/
theorem scheduleCompletion_timer (n : Nat) {s : State} (h : s.params.fastDma = false) :
    scheduleCompletion n s = { s with timers := s.timers + 1 } := by
  simp [scheduleCompletion, h]

/-- Everything scheduling a completion can do to a state. -/
theorem scheduleCompletion_cases (n : Nat) (s : State) :
    (s.params.fastDma = true ∧ scheduleCompletion n s = done s) ∨
    (s.params.fastDma = false ∧ scheduleCompletion n s = { s with timers := s.timers + 1 }) := by
  cases h : s.params.fastDma
  · exact .inr ⟨rfl, scheduleCompletion_timer n h⟩
  · exact .inl ⟨rfl, scheduleCompletion_fast n h⟩

/-! ### Rows and lines -/

/-- A good store: canonical and inside `n` cells. -/
theorem copyRow_good {p : Params} (hp : 0 < p.vramCells) (source : Memory) (src dst : Nat) {target : Memory}
    (hw : target.wf = true) (hb : target.below p.vramCells = true) :
    (copyRow p source src target dst).wf = true ∧
      (copyRow p source src target dst).below p.vramCells = true :=
  Memory.foldl_write_good _ (fun _ c => source.read (cellIndex p src c)) _
    (fun _ _ => cellIndex_lt hp _ _) hw hb

/-- Copying a row over the same row: its cells read as in the source, every other as before (rule R211). -/
theorem copyRow_read {p : Params} (source : Memory) (row : Nat) {target : Memory} (hw : target.wf = true)
    (k : Nat) :
    (copyRow p source row target row).read k =
      if ∃ c < vramStride, k = cellIndex p row c then source.read k else target.read k := by
  unfold copyRow
  suffices h : ∀ (cs : List Nat) (m : Memory), m.wf = true →
      (cs.foldl (fun m c => m.write (cellIndex p row c) (source.read (cellIndex p row c))) m).read k =
        if ∃ c ∈ cs, k = cellIndex p row c then source.read k else m.read k by
    simpa using h (List.range vramStride) target hw
  intro cs
  induction cs with
  | nil => intro m _; simp
  | cons c cs ih =>
    intro m hm
    rw [List.foldl_cons, ih _ (Memory.wf_write hm _ _), Memory.read_write hm]
    by_cases h1 : ∃ c ∈ cs, k = cellIndex p row c
    · rw [if_pos h1, if_pos]
      obtain ⟨x, hx, e⟩ := h1
      exact ⟨x, List.mem_cons_of_mem _ hx, e⟩
    · rw [if_neg h1]
      by_cases h2 : k = cellIndex p row c
      · rw [if_pos h2, if_pos ⟨c, List.mem_cons_self, h2⟩, h2]
      · rw [if_neg h2, if_neg]
        rintro ⟨x, hx, e⟩
        rcases List.mem_cons.mp hx with rfl | hx
        · exact h2 e
        · exact h1 ⟨x, hx, e⟩

theorem eraseLine_good {p : Params} (hp : 0 < p.vramCells) (line : Nat) {vram : Memory}
    (hw : vram.wf = true) (hb : vram.below p.vramCells = true) :
    (eraseLine p vram line).wf = true ∧ (eraseLine p vram line).below p.vramCells = true :=
  Memory.foldl_write_good _ (fun m c => m.read (cellIndex p p.autoeraseRow c)) _
    (fun _ _ => cellIndex_lt hp _ _) hw hb

/-- Erasing a line touches its row only (rule R214). -/
theorem eraseLine_read_ne {p : Params} (line : Nat) (vram : Memory) {k : Nat}
    (h : ∀ c < vramStride, k ≠ cellIndex p (lineRowOf p line) c) :
    (eraseLine p vram line).read k = vram.read k :=
  Memory.read_foldl_write_ne _ (fun m c => m.read (cellIndex p p.autoeraseRow c)) _ _
    fun c hc => h c (List.mem_range.mp hc)

/-- A fold that keeps a store good at every element keeps it good. -/
theorem Memory.foldl_good {ι : Type} {n : Nat} (f : Memory → ι → Memory)
    (hf : ∀ m i, m.wf = true → m.below n = true → (f m i).wf = true ∧ (f m i).below n = true)
    (is : List ι) {m : Memory} (hw : m.wf = true) (hb : m.below n = true) :
    (is.foldl f m).wf = true ∧ (is.foldl f m).below n = true := by
  induction is generalizing m with
  | nil => exact ⟨hw, hb⟩
  | cons i is ih => exact ih (hf m i hw hb).1 (hf m i hw hb).2

theorem mem_linesFromTo {a b l : Nat} : l ∈ linesFromTo a b ↔ a ≤ l ∧ l ≤ b := by
  simp only [linesFromTo, List.mem_range'_1]
  omega

theorem mem_insertLine {l x : Nat} {set : List Nat} : x ∈ insertLine l set ↔ x = l ∨ x ∈ set := by
  induction set with
  | nil => simp [insertLine]
  | cons y ys ih =>
    unfold insertLine
    split
    · simp
    · split
      · rename_i h
        subst h
        simp
      · simp only [List.mem_cons, ih]
        tauto

/-- Recording a line keeps the set strictly rising. -/
theorem insertLine_sorted {l : Nat} {set : List Nat} (h : set.Pairwise (· < ·)) :
    (insertLine l set).Pairwise (· < ·) := by
  induction set with
  | nil => simp [insertLine]
  | cons y ys ih =>
    rw [List.pairwise_cons] at h
    unfold insertLine
    split
    · rename_i hl
      rw [List.pairwise_cons, List.pairwise_cons]
      refine ⟨fun x hx => ?_, h⟩
      rcases List.mem_cons.mp hx with rfl | hx
      · exact hl
      · exact Nat.lt_trans hl (h.1 x hx)
    · split
      · rw [List.pairwise_cons]
        exact h
      · rw [List.pairwise_cons]
        refine ⟨fun x hx => ?_, ih h.2⟩
        rcases mem_insertLine.mp hx with rfl | hx
        · omega
        · exact h.1 x hx

/-- Recording a list of lines adds exactly them and keeps the set strictly rising (rule R215). -/
theorem foldl_insertLine (ls : List Nat) {set : List Nat} (h : set.Pairwise (· < ·)) :
    (ls.foldl (fun s l => insertLine l s) set).Pairwise (· < ·) ∧
    ∀ x, x ∈ ls.foldl (fun s l => insertLine l s) set ↔ x ∈ set ∨ x ∈ ls := by
  induction ls generalizing set with
  | nil => exact ⟨h, by simp⟩
  | cons l ls ih =>
    obtain ⟨h1, h2⟩ := ih (insertLine_sorted (l := l) h)
    refine ⟨h1, fun x => ?_⟩
    rw [List.foldl_cons, h2, mem_insertLine, List.mem_cons]
    tauto

/-- The memories of the reset state are in their canonical form. -/
theorem State.reset_memories_wf : State.reset.vram.wf = true ∧ State.reset.shadow.wf = true ∧
    State.reset.palram.wf = true ∧ State.reset.cmos.wf = true := ⟨rfl, rfl, rfl, rfl⟩

/-! ### The CMOS blob -/

/-- A loaded store is in its canonical form and inside the CMOS space (rule R235). -/
theorem loadCmos_good {p : Params} (h : 0 < p.cmosPageWords) (blob : Blob) :
    (loadCmos p blob).wf = true ∧ (loadCmos p blob).below (cmosWords p) = true := by
  cases blob with
  | none => exact ⟨rfl, rfl⟩
  | some bytes =>
    exact ⟨Memory.writeWrapped_wf _ _ _ rfl, Memory.writeWrapped_below (cmosWords_pos h) _ _ rfl⟩

/-! ### The draw -/

theorem plotPixel_good {p : Params} (hp : 0 < p.vramCells) (d : Descriptor) (sy sx : Word) (o : BitAddr)
    {vram : Memory} (hw : vram.wf = true) (hb : vram.below p.vramCells = true) :
    (plotPixel p d sy sx o vram).wf = true ∧ (plotPixel p d sy sx o vram).below p.vramCells = true := by
  unfold plotPixel
  split
  · exact ⟨hw, hb⟩
  · exact ⟨Memory.wf_write hw _ _, Memory.below_write hb (cellIndex_lt hp _ _) _⟩

theorem pixelLoop_good {p : Params} (hp : 0 < p.vramCells) (d : Descriptor) (sy : Word) (W fuel : Nat)
    (sx : Word) (ix : Nat) (o : BitAddr) {vram : Memory} (hw : vram.wf = true)
    (hb : vram.below p.vramCells = true) :
    (pixelLoop p d sy W fuel sx ix o vram).wf = true ∧
      (pixelLoop p d sy W fuel sx ix o vram).below p.vramCells = true := by
  induction fuel generalizing sx ix o vram with
  | zero => exact ⟨hw, hb⟩
  | succ fuel ih =>
    unfold pixelLoop
    split
    · split
      · have h := plotPixel_good hp d sy sx o hw hb
        exact ih _ _ _ h.1 h.2
      · exact ih _ _ _ hw hb
    · exact ⟨hw, hb⟩

theorem rowLoop_good {p : Params} (hp : 0 < p.vramCells) (d : Descriptor) (fuel : Nat) (sy : Word) (iy : Nat)
    (offset : BitAddr) {vram : Memory} (hw : vram.wf = true) (hb : vram.below p.vramCells = true) :
    (rowLoop p d fuel sy iy offset vram).wf = true ∧
      (rowLoop p d fuel sy iy offset vram).below p.vramCells = true := by
  induction fuel generalizing sy iy offset vram with
  | zero => exact ⟨hw, hb⟩
  | succ fuel ih =>
    unfold rowLoop
    split
    · have h : (drawRow p d sy offset vram).wf = true ∧
          (drawRow p d sy offset vram).below p.vramCells = true := by
        unfold drawRow
        dsimp only
        split
        · exact pixelLoop_good hp d sy _ _ _ _ _ hw hb
        · exact ⟨hw, hb⟩
      exact ih _ _ _ h.1 h.2
    · exact ⟨hw, hb⟩

/-- A draw keeps video memory canonical and never writes outside it (rules R59, R150). -/
theorem draw_good {p : Params} (hp : 0 < p.vramCells) (d : Descriptor) {vram : Memory}
    (hw : vram.wf = true) (hb : vram.below p.vramCells = true) :
    (draw p d vram).wf = true ∧ (draw p d vram).below p.vramCells = true :=
  rowLoop_good hp d _ _ _ _ hw hb

/-- The pixel loop's fuel does not matter, once it covers what is left of the row (rule R150). -/
theorem pixelLoop_fuel {p : Params} {d : Descriptor} (hx : 1 ≤ d.xstep) (sy : Word) (W : Nat) {fuel : Nat}
    (extra : Nat) (sx : Word) (ix : Nat) (o : BitAddr) (vram : Memory) (h : W - ix ≤ fuel) :
    pixelLoop p d sy W (fuel + extra) sx ix o vram = pixelLoop p d sy W fuel sx ix o vram := by
  induction fuel generalizing sx ix o vram with
  | zero =>
    cases extra with
    | zero => rfl
    | succ e => simp only [pixelLoop]; rw [if_neg (by omega)]
  | succ fuel ih =>
    rw [Nat.add_right_comm]
    simp only [pixelLoop]
    split
    · exact ih _ _ _ _ (by omega)
    · rfl

/-- The row loop's fuel does not matter, once it covers what is left of the rectangle (rule R150). -/
theorem rowLoop_fuel {p : Params} {d : Descriptor} (hy : 1 ≤ d.ystep) {fuel : Nat} (extra : Nat) (sy : Word)
    (iy : Nat) (offset : BitAddr) (vram : Memory) (h : d.height * 256 - iy ≤ fuel) :
    rowLoop p d (fuel + extra) sy iy offset vram = rowLoop p d fuel sy iy offset vram := by
  induction fuel generalizing sy iy offset vram with
  | zero =>
    cases extra with
    | zero => rfl
    | succ e => simp only [rowLoop]; rw [if_neg (by omega)]
  | succ fuel ih =>
    rw [Nat.add_right_comm]
    simp only [rowLoop]
    split
    · exact ih _ _ _ _ (by omega)
    · rfl

/-- A step is at least 1, so both accumulators strictly increase (rule R150). -/
theorem stepOf_pos (v : Word) : 1 ≤ stepOf v := by
  unfold stepOf
  split
  · omega
  · rename_i h
    have : v.toNat ≠ 0 := fun e => h (BitVec.eq_of_toNat_eq e)
    omega

/-- A draw reads nothing of the board but its parameters, and a go command changes nothing but video
memory, `COMMAND`, `irq` and the in-flight completions (rules R121, R140). -/
theorem go_eq (c : Word) (v : Variant) (s : State) :
    go c v s = scheduleCompletion
      ((buildDescriptor c v s).width * (buildDescriptor c v s).height)
      { s with vram := if insideWindow s then draw s.params (buildDescriptor c v s) s.vram else s.vram } := by
  unfold go
  dsimp only
  split <;> simp_all

/-- A descriptor does not depend on the command register, `irq` or the fields it does not read. -/
theorem buildDescriptor_latchCommand (c c' : Word) (v : Variant) (s : State) :
    buildDescriptor c v (latchCommand c' s) = buildDescriptor c v s := by
  simp only [buildDescriptor, sourceOffset, paletteBank, latchCommand_params,
    readReg_latchCommand_ne c' s (r := offsetHi) (by decide),
    readReg_latchCommand_ne c' s (r := offsetLo) (by decide),
    readReg_latchCommand_ne c' s (r := xStart) (by decide),
    readReg_latchCommand_ne c' s (r := yStart) (by decide),
    readReg_latchCommand_ne c' s (r := widthReg) (by decide),
    readReg_latchCommand_ne c' s (r := heightReg) (by decide),
    readReg_latchCommand_ne c' s (r := paletteReg) (by decide),
    readReg_latchCommand_ne c' s (r := colorReg) (by decide),
    readReg_latchCommand_ne c' s (r := topClip) (by decide),
    readReg_latchCommand_ne c' s (r := botClip) (by decide),
    readReg_latchCommand_ne c' s (r := leftClip) (by decide),
    readReg_latchCommand_ne c' s (r := rightClip) (by decide),
    readReg_latchCommand_ne c' s (r := scaleX) (by decide),
    readReg_latchCommand_ne c' s (r := scaleY) (by decide)]

theorem insideWindow_latchCommand (c : Word) (s : State) :
    insideWindow (latchCommand c s) = insideWindow s := by
  simp only [insideWindow, sourceOffset, latchCommand_params,
    readReg_latchCommand_ne c s (r := offsetHi) (by decide),
    readReg_latchCommand_ne c s (r := offsetLo) (by decide)]
  rfl

end Sys2Proof.Machine
end

