-- ==== Sys2Proof/Laws/Blit.lean ====
section
/-! SUPPORT. The body of the 32 modes, said once for each completion mode, the row-by-row source
addresses, one pixel, and the two loops as folds over their rows and columns. -/

namespace Sys2Proof.Machine

/-- A go command in fast mode (rules R121, R128). -/
theorem runBlit_fast (m : BitVec 5) (v : Variant) (f : BltFields) {s : State}
    (h : s.params.fastDma = true) :
    runBlit m v f s = { s with
      dma := s.dma.set 14 (bltWord m f &&& 0x7FFF#16)
      irq := true
      vram := if insideWindow s then draw s.params (buildDescriptor (bltWord m f) v s) s.vram else s.vram
      out := none } := by
  rw [runBlit, go_eq, buildDescriptor_latchCommand, insideWindow_latchCommand, scheduleCompletion,
    if_pos (by exact h)]
  simp [done, setOut, latchCommand, acknowledge, writeReg, readReg, h]

/-- A go command in timer mode (rules R121, R129). -/
theorem runBlit_timer (m : BitVec 5) (v : Variant) (f : BltFields) {s : State}
    (h : s.params.fastDma = false) :
    runBlit m v f s = { s with
      dma := s.dma.set 14 (bltWord m f)
      irq := false
      timers := s.timers + 1
      vram := if insideWindow s then draw s.params (buildDescriptor (bltWord m f) v s) s.vram else s.vram
      out := none } := by
  rw [runBlit, go_eq, buildDescriptor_latchCommand, insideWindow_latchCommand, scheduleCompletion,
    if_neg (by simp [h])]
  simp [setOut, latchCommand, acknowledge, writeReg]

/-- Without skip mode the source rows follow each other (rule R142). -/
theorem nextRows_unskipped {d : Descriptor} (p : Params) (h : d.skip = false) (n : Nat) (o : BitAddr) :
    nextRows p d n o = o + BitVec.ofNat 32 (n * (d.width * d.bpp)) := by
  induction n generalizing o with
  | zero => simp [nextRows]
  | succ n ih =>
    rw [nextRows, ih, nextRow, h, Nat.succ_mul]
    simp only [Bool.false_eq_true, if_false]
    rw [BitVec.add_assoc, ← BitVec.ofNat_add, Nat.add_comm (d.width * d.bpp)]

/-- What a pixel writes (rules R141 (c), R146). -/
theorem plotPixel_read {p : Params} (d : Descriptor) (sy sx : Word) (o : BitAddr) {vram : Memory}
    (hw : vram.wf = true) (k : Nat) :
    (plotPixel p d sy sx o vram).read k =
      if k = cellIndex p sy.toNat sx.toNat then (emitted d (romBits p o d.bpp)).getD (vram.read k)
      else vram.read k := by
  unfold plotPixel
  cases h : emitted d (romBits p o d.bpp) with
  | none => simp
  | some v => simp [Memory.read_write hw]

/-! ### The two loops of rule R141, unrolled -/

/-- Two moves of the bit cursor are one (rule R147). -/
theorem advanceCursor_trans (d : Descriptor) (o : BitAddr) {a b c : Nat} (hab : a ≤ b) (hbc : b ≤ c) :
    advanceCursor d (advanceCursor d o a b) b c = advanceCursor d o a c := by
  have h1 : a / 256 ≤ b / 256 := Nat.div_le_div_right hab
  have h2 : b / 256 ≤ c / 256 := Nat.div_le_div_right hbc
  simp only [advanceCursor]
  rw [BitVec.add_assoc, ← BitVec.ofNat_add, ← Nat.mul_add]
  congr 3
  omega

/-- Source rows advance one after the other (rule R149). -/
theorem nextRows_add (p : Params) (d : Descriptor) (m n : Nat) (o : BitAddr) :
    nextRows p d (m + n) o = nextRows p d n (nextRows p d m o) := by
  induction m generalizing o with
  | zero => simp [nextRows]
  | succ m ih => rw [Nat.succ_add, nextRows, ih, nextRows]

/-- How often a loop runs whose accumulator `a` gains `step` until it reaches `limit`. -/
theorem loop_count_pos {a limit step : Nat} (hs : 1 ≤ step) (h : a < limit) :
    (limit - a + step - 1) / step = (limit - (a + step) + step - 1) / step + 1 := by
  rcases Nat.lt_or_ge (a + step) limit with h' | h'
  · have : limit - a + step - 1 = (limit - (a + step) + step - 1) + step := by omega
    rw [this, Nat.add_div_right _ hs]
  · have h0 : limit - (a + step) + step - 1 = step - 1 := by omega
    have h1 : limit - a + step - 1 = limit - a - 1 + step := by omega
    rw [h0, h1, Nat.add_div_right _ hs, Nat.div_eq_of_lt (by omega), Nat.div_eq_of_lt (by omega)]

/-- Such a loop does not run once the accumulator has reached the limit. -/
theorem loop_count_zero {a limit step : Nat} (hs : 1 ≤ step) (h : ¬ a < limit) :
    (limit - a + step - 1) / step = 0 := Nat.div_eq_of_lt (by omega)

/-- A fold over the first `n + 1` numbers, its first step taken. -/
theorem foldl_range_succ {α : Type} (f : α → Nat → α) (a : α) (n : Nat) :
    (List.range (n + 1)).foldl f a = (List.range n).foldl (fun x j => f x (j + 1)) (f a 0) := by
  rw [List.range_succ_eq_map, List.foldl_cons, List.foldl_map]

/-- The pixel loop, pixel by pixel in drawing order: column number `j` is `j` steps on, and its source pixel
as many whole pixels on as the accumulator crossed (rules R141 (c), R147, R148). -/
theorem pixelLoop_eq_foldl {p : Params} {d : Descriptor} (hx : 1 ≤ d.xstep) (sy : Word) (W : Nat) {fuel : Nat}
    (sx : Word) (ix : Nat) (o : BitAddr) (vram : Memory) (h : W - ix ≤ fuel) :
    pixelLoop p d sy W fuel sx ix o vram =
      (List.range ((W - ix + d.xstep - 1) / d.xstep)).foldl (fun m j =>
        if insideX d ((fun x => stepColumn p d x 1)^[j] sx) then
          plotPixel p d sy ((fun x => stepColumn p d x 1)^[j] sx) (advanceCursor d o ix (ix + j * d.xstep)) m
        else m) vram := by
  induction fuel generalizing sx ix o vram with
  | zero => rw [loop_count_zero hx (by omega)]; rfl
  | succ fuel ih =>
    unfold pixelLoop
    split
    · rename_i hlt
      rw [loop_count_pos hx hlt, foldl_range_succ, ih _ _ _ _ (by omega)]
      congr 1
      · funext m j
        rw [advanceCursor_trans d o (by omega) (by omega), Function.iterate_succ_apply, Nat.succ_mul,
          Nat.add_comm (j * d.xstep), Nat.add_assoc]
      · simp [advanceCursor]
    · rename_i hlt
      rw [loop_count_zero hx hlt]; rfl

/-- The row loop, row by row: destination row number `j` is `j` steps on, and its source row as many rows on
as the accumulator crossed (rules R141 (d), R149). -/
theorem rowLoop_eq_foldl {p : Params} {d : Descriptor} (hy : 1 ≤ d.ystep) {fuel : Nat} (sy : Word)
    (iy : Nat) (offset : BitAddr) (vram : Memory) (h : d.height * 256 - iy ≤ fuel) :
    rowLoop p d fuel sy iy offset vram =
      (List.range ((d.height * 256 - iy + d.ystep - 1) / d.ystep)).foldl (fun m j =>
        drawRow p d ((stepRow p d)^[j] sy) (nextRows p d ((iy + j * d.ystep) / 256 - iy / 256) offset) m)
        vram := by
  induction fuel generalizing sy iy offset vram with
  | zero => rw [loop_count_zero hy (by omega)]; rfl
  | succ fuel ih =>
    unfold rowLoop
    split
    · rename_i hlt
      rw [loop_count_pos hy hlt, foldl_range_succ, ih _ _ _ _ (by omega)]
      refine congrArg₂ (fun g a => List.foldl g a (List.range _)) ?_ ?_
      · funext m j
        have h1 : iy / 256 ≤ (iy + d.ystep) / 256 := Nat.div_le_div_right (by omega)
        have h2 : (iy + d.ystep) / 256 ≤ (iy + d.ystep + j * d.ystep) / 256 := Nat.div_le_div_right (by omega)
        have e : iy + (j + 1) * d.ystep = iy + d.ystep + j * d.ystep := by rw [Nat.succ_mul]; omega
        rw [← nextRows_add, Function.iterate_succ_apply, e]
        congr 2
        omega
      · simp [nextRows]
    · rename_i hlt
      rw [loop_count_zero hy hlt]; rfl

end Sys2Proof.Machine
end

