-- ==== Sys2Proof/Laws/PerInstr.lean ====
section
/-! SUPPORT. Per-instruction families: a statement about an operation as syntax, and one lemma for each
constructor of `Instr`. -/

namespace Sys2Proof.Laws

/-- The call's mask is one of the four of rule R51; an event has none. -/
def callMaskLegal : Call → Bool
  | .port _ _ _ _ mask => (byteMask? mask).isSome
  | .event _ => true

/-- The encoder never sends a mask the port does not have (rule R51). -/
def EncodedMask.Statement (i : Instr) : Prop := ∀ c : Context, callMaskLegal (encode c i) = true

theorem EncodedMask.dmaWr (off : Nat) (data : Word) (mask : ByteMask) : EncodedMask.Statement (.dmaWr off data mask) := fun _ =>
  by simp [callMaskLegal, encode]

theorem EncodedMask.dmaRd (off : Nat) : EncodedMask.Statement (.dmaRd off) :=
  fun _ => rfl

theorem EncodedMask.dmaStop (r : BitVec 15) : EncodedMask.Statement (.dmaStop r) :=
  fun _ => rfl

theorem EncodedMask.blt00 (f : BltFields) : EncodedMask.Statement (.blt00 f) :=
  fun _ => rfl

theorem EncodedMask.blt01 (f : BltFields) : EncodedMask.Statement (.blt01 f) :=
  fun _ => rfl

theorem EncodedMask.blt02 (f : BltFields) : EncodedMask.Statement (.blt02 f) :=
  fun _ => rfl

theorem EncodedMask.blt03 (f : BltFields) : EncodedMask.Statement (.blt03 f) :=
  fun _ => rfl

theorem EncodedMask.blt04 (f : BltFields) : EncodedMask.Statement (.blt04 f) :=
  fun _ => rfl

theorem EncodedMask.blt05 (f : BltFields) : EncodedMask.Statement (.blt05 f) :=
  fun _ => rfl

theorem EncodedMask.blt06 (f : BltFields) : EncodedMask.Statement (.blt06 f) :=
  fun _ => rfl

theorem EncodedMask.blt07 (f : BltFields) : EncodedMask.Statement (.blt07 f) :=
  fun _ => rfl

theorem EncodedMask.blt08 (f : BltFields) : EncodedMask.Statement (.blt08 f) :=
  fun _ => rfl

theorem EncodedMask.blt09 (f : BltFields) : EncodedMask.Statement (.blt09 f) :=
  fun _ => rfl

theorem EncodedMask.blt0A (f : BltFields) : EncodedMask.Statement (.blt0A f) :=
  fun _ => rfl

theorem EncodedMask.blt0B (f : BltFields) : EncodedMask.Statement (.blt0B f) :=
  fun _ => rfl

theorem EncodedMask.blt0C (f : BltFields) : EncodedMask.Statement (.blt0C f) :=
  fun _ => rfl

theorem EncodedMask.blt0D (f : BltFields) : EncodedMask.Statement (.blt0D f) :=
  fun _ => rfl

theorem EncodedMask.blt0E (f : BltFields) : EncodedMask.Statement (.blt0E f) :=
  fun _ => rfl

theorem EncodedMask.blt0F (f : BltFields) : EncodedMask.Statement (.blt0F f) :=
  fun _ => rfl

theorem EncodedMask.blt10 (f : BltFields) : EncodedMask.Statement (.blt10 f) :=
  fun _ => rfl

theorem EncodedMask.blt11 (f : BltFields) : EncodedMask.Statement (.blt11 f) :=
  fun _ => rfl

theorem EncodedMask.blt12 (f : BltFields) : EncodedMask.Statement (.blt12 f) :=
  fun _ => rfl

theorem EncodedMask.blt13 (f : BltFields) : EncodedMask.Statement (.blt13 f) :=
  fun _ => rfl

theorem EncodedMask.blt14 (f : BltFields) : EncodedMask.Statement (.blt14 f) :=
  fun _ => rfl

theorem EncodedMask.blt15 (f : BltFields) : EncodedMask.Statement (.blt15 f) :=
  fun _ => rfl

theorem EncodedMask.blt16 (f : BltFields) : EncodedMask.Statement (.blt16 f) :=
  fun _ => rfl

theorem EncodedMask.blt17 (f : BltFields) : EncodedMask.Statement (.blt17 f) :=
  fun _ => rfl

theorem EncodedMask.blt18 (f : BltFields) : EncodedMask.Statement (.blt18 f) :=
  fun _ => rfl

theorem EncodedMask.blt19 (f : BltFields) : EncodedMask.Statement (.blt19 f) :=
  fun _ => rfl

theorem EncodedMask.blt1A (f : BltFields) : EncodedMask.Statement (.blt1A f) :=
  fun _ => rfl

theorem EncodedMask.blt1B (f : BltFields) : EncodedMask.Statement (.blt1B f) :=
  fun _ => rfl

theorem EncodedMask.blt1C (f : BltFields) : EncodedMask.Statement (.blt1C f) :=
  fun _ => rfl

theorem EncodedMask.blt1D (f : BltFields) : EncodedMask.Statement (.blt1D f) :=
  fun _ => rfl

theorem EncodedMask.blt1E (f : BltFields) : EncodedMask.Statement (.blt1E f) :=
  fun _ => rfl

theorem EncodedMask.blt1F (f : BltFields) : EncodedMask.Statement (.blt1F f) :=
  fun _ => rfl

theorem EncodedMask.dmaDone : EncodedMask.Statement (.dmaDone) :=
  fun _ => rfl

theorem EncodedMask.ctrlWr (data : Word) (mask : ByteMask) : EncodedMask.Statement (.ctrlWr data mask) := fun _ =>
  by simp [callMaskLegal, encode]

theorem EncodedMask.vramWr (off : Nat) (data : Word) (mask : ByteMask) : EncodedMask.Statement (.vramWr off data mask) := fun _ =>
  by simp [callMaskLegal, encode]

theorem EncodedMask.vramRd (off : Nat) : EncodedMask.Statement (.vramRd off) :=
  fun _ => rfl

theorem EncodedMask.palWr (off : Nat) (data : Word) : EncodedMask.Statement (.palWr off data) :=
  fun _ => rfl

theorem EncodedMask.vidLine (scanline : Int) (pageflip : Bool) : EncodedMask.Statement (.vidLine scanline pageflip) :=
  fun _ => rfl

theorem EncodedMask.vidEof (pageflip : Bool) : EncodedMask.Statement (.vidEof pageflip) :=
  fun _ => rfl

theorem EncodedMask.srToHost (addr : Nat) : EncodedMask.Statement (.srToHost addr) :=
  fun _ => rfl

theorem EncodedMask.srFromHost (addr : Nat) (buffer : ShiftBuffer) : EncodedMask.Statement (.srFromHost addr buffer) :=
  fun _ => rfl

theorem EncodedMask.cmosRd (off : Nat) : EncodedMask.Statement (.cmosRd off) :=
  fun _ => rfl

theorem EncodedMask.cmosWr (off : Nat) (data : Word) (mask : ByteMask) : EncodedMask.Statement (.cmosWr off data mask) := fun _ =>
  by simp [callMaskLegal, encode]

theorem EncodedMask.cmosEn (data : Word) : EncodedMask.Statement (.cmosEn data) :=
  fun _ => rfl

theorem EncodedMask.cmosLoad (blob : Blob) : EncodedMask.Statement (.cmosLoad blob) :=
  fun _ => rfl

theorem EncodedMask.cmosSave : EncodedMask.Statement (.cmosSave) :=
  fun _ => rfl

theorem EncodedMask.prot1Rd : EncodedMask.Statement (.prot1Rd) :=
  fun _ => rfl

theorem EncodedMask.prot1Wr (data : Word) (mask : ByteMask) : EncodedMask.Statement (.prot1Wr data mask) := fun _ =>
  by simp [callMaskLegal, encode]

theorem EncodedMask.prot2Rd : EncodedMask.Statement (.prot2Rd) :=
  fun _ => rfl

theorem EncodedMask.prot2RdSh : EncodedMask.Statement (.prot2RdSh) :=
  fun _ => rfl

theorem EncodedMask.prot2RdC : EncodedMask.Statement (.prot2RdC) :=
  fun _ => rfl

theorem EncodedMask.prot2Wr (data : Word) (mask : ByteMask) : EncodedMask.Statement (.prot2Wr data mask) := fun _ =>
  by simp [callMaskLegal, encode]

theorem EncodedMask.prot3Rd : EncodedMask.Statement (.prot3Rd) :=
  fun _ => rfl

theorem EncodedMask.prot3Wr (off : Nat) (data : Word) : EncodedMask.Statement (.prot3Wr off data) :=
  fun _ => rfl

theorem EncodedMask.prot4Wr (data : Word) : EncodedMask.Statement (.prot4Wr data) :=
  fun _ => rfl

theorem EncodedMask.prot4Rd : EncodedMask.Statement (.prot4Rd) :=
  fun _ => rfl

theorem EncodedMask.prot5Wr (data : Word) : EncodedMask.Statement (.prot5Wr data) :=
  fun _ => rfl

theorem EncodedMask.prot5Rd : EncodedMask.Statement (.prot5Rd) :=
  fun _ => rfl

theorem EncodedMask.prot5Status : EncodedMask.Statement (.prot5Status) :=
  fun _ => rfl

theorem EncodedMask.reset (p : Params) (blob : Blob) : EncodedMask.Statement (.reset p blob) :=
  fun _ => rfl

end Sys2Proof.Laws
end

