-- ==== Sys2Proof/Laws/Prot.lean ====
section
/-! SUPPORT. What the protection chips' shared operations can do, said once. -/

namespace Sys2Proof.Machine

/-- The entry a chip 1 write selects: the least match (rule R241). -/
theorem mk1Search_eq {table : List (BitVec 6)} {shift : Nat} {data : Word} {j : Nat}
    (h : table[j]? = some (data.extractLsb' shift 6))
    (hm : ∀ j' < j, table[j']? ≠ some (data.extractLsb' shift 6)) : mk1Search table shift data = j := by
  have hf : table.findIdx? (fun v => decide (v = data.extractLsb' shift 6)) = some j := by
    rw [List.findIdx?_eq_some_iff_getElem]
    obtain ⟨hj, e⟩ := List.getElem?_eq_some_iff.mp h
    refine ⟨hj, by simp [e], fun i hi => ?_⟩
    have := hm i hi
    rw [List.getElem?_eq_getElem (by omega)] at this
    simpa using this
  simp [mk1Search, hf]

/-- No match: the first entry (rule R241). -/
theorem mk1Search_none {table : List (BitVec 6)} {shift : Nat} {data : Word}
    (h : data.extractLsb' shift 6 ∉ table) : mk1Search table shift data = 0 := by
  have hf : table.findIdx? (fun v => decide (v = data.extractLsb' shift 6)) = none := by
    rw [List.findIdx?_eq_none_iff]
    intro x hx
    simp only [decide_eq_false_iff_not]
    rintro rfl
    exact h hx
  simp [mk1Search, hf]

/-- An enable write touches the CMOS permission and chip 4 alone (rules R233, R257). -/
theorem enableWrite_eq (data : Word) (s : State) :
    enableWrite data s = { s with
      cmosWe := true
      p4Fifo := (enableWrite data s).p4Fifo
      p4Cursor := (enableWrite data s).p4Cursor
      p4Result := (enableWrite data s).p4Result } := by
  cases h : s.params.chip with
  | none => simp [enableWrite, h]
  | some c =>
    cases c <;> simp only [enableWrite, h]
    rename_i rs ds sf code ex
    cases sf
    · simp only [chip4Write, protocolWrite, Bool.false_eq_true, if_false]
      split <;> rfl
    · rfl

/-- Without a reset pattern or an edge, a chip 4 write moves the history alone (rules R257 to R260). -/
theorem protocolWrite_quiet {resetSeq : Vector Word 3} {dataSeq : List Word} {s : State}
    (hr : s.p4Fifo ≠ resetSeq) (he : fallingEdge s.p4Fifo = false) :
    protocolWrite resetSeq dataSeq s = s := by
  simp [protocolWrite, he, resetCursor, hr]

/-- A falling edge away from the reset pattern clocks out the entry under the cursor (rule R260). -/
theorem protocolWrite_edge {resetSeq : Vector Word 3} {dataSeq : List Word} {s : State}
    (hr : s.p4Fifo ≠ resetSeq) (he : fallingEdge s.p4Fifo = true) (hd : dataSeq ≠ []) :
    protocolWrite resetSeq dataSeq s = { s with
      p4Result := dataSeq.getD (min s.p4Cursor (dataSeq.length - 1)) 0#16
      p4Cursor := min (s.p4Cursor + 1) (dataSeq.length - 1) } := by
  simp [protocolWrite, he, resetCursor, hr, hd]

end Sys2Proof.Machine
end

