-- ==== Sys2Proof/Laws/Video.lean ====
section
/-! SUPPORT. What the video operations can do, said once: a byte lane of a host write, rows copied and rows
erased, the compositor's two parts. -/

namespace Sys2Proof.Machine

/-- A fold that keeps the canonical form at every element keeps it. -/
theorem Memory.wf_foldl {ι : Type} (f : Memory → ι → Memory) (hf : ∀ m i, m.wf = true → (f m i).wf = true)
    (is : List ι) {m : Memory} (hw : m.wf = true) : (is.foldl f m).wf = true := by
  induction is generalizing m with
  | nil => exact hw
  | cons i is ih => exact ih (hf m i hw)

/-- A byte lane of a host write changes its own cell at most (rules R201, R206). -/
theorem pokeCell_read (s : State) (enabled : Bool) (k : Nat) (palByte b : Byte) {vram : Memory}
    (hw : vram.wf = true) (j : Nat) :
    (pokeCell s enabled k palByte b vram).read j =
      if enabled = true ∧ j = k then hostCell s.params s.bankSelect (vram.read k) palByte b
      else vram.read j := by
  unfold pokeCell
  cases enabled
  · simp
  · simp [Memory.read_write hw]

theorem pokeCell_wf (s : State) (enabled : Bool) (k : Nat) (palByte b : Byte) {vram : Memory}
    (hw : vram.wf = true) : (pokeCell s enabled k palByte b vram).wf = true := by
  unfold pokeCell
  split
  · exact Memory.wf_write hw _ _
  · exact hw

/-- The cells of a host word are two cells wherever video memory holds more than one (rule R202). -/
theorem evenCell_ne_oddCell {p : Params} (h : 2 ≤ p.vramCells) (off : Nat) :
    evenCell p off ≠ oddCell p off := by
  unfold evenCell oddCell
  intro e
  have h1 := Nat.div_add_mod (2 * off) p.vramCells
  have h2 := Nat.div_add_mod (2 * off + 1) p.vramCells
  rw [← e] at h2
  have h3 : p.vramCells * ((2 * off + 1) / p.vramCells) = p.vramCells * (2 * off / p.vramCells) + 1 := by
    omega
  have h4 : p.vramCells ∣ 1 :=
    (Nat.dvd_add_right (Nat.dvd_mul_right _ _)).mp (h3 ▸ Nat.dvd_mul_right _ _)
  have := Nat.le_of_dvd Nat.one_pos h4
  omega

/-- Copying the rows of some lines: their cells read as in the source, every other as before (rule R211). -/
theorem copyLines_read {p : Params} (source : Memory) (ls : List Nat) {target : Memory}
    (hw : target.wf = true) (k : Nat) :
    (ls.foldl (fun m l => copyRow p source (lineRowOf p l) m (lineRowOf p l)) target).read k =
      if ∃ l ∈ ls, ∃ c < vramStride, k = cellIndex p (lineRowOf p l) c then source.read k
      else target.read k := by
  induction ls generalizing target with
  | nil => simp
  | cons l ls ih =>
    have hw' : (copyRow p source (lineRowOf p l) target (lineRowOf p l)).wf = true :=
      Memory.wf_foldl _ (fun _ _ h => Memory.wf_write h _ _) _ hw
    rw [List.foldl_cons, ih hw', copyRow_read source _ hw]
    by_cases h1 : ∃ l ∈ ls, ∃ c < vramStride, k = cellIndex p (lineRowOf p l) c
    · rw [if_pos h1, if_pos]
      obtain ⟨x, hx, e⟩ := h1
      exact ⟨x, List.mem_cons_of_mem _ hx, e⟩
    · rw [if_neg h1]
      by_cases h2 : ∃ c < vramStride, k = cellIndex p (lineRowOf p l) c
      · rw [if_pos h2, if_pos ⟨l, List.mem_cons_self, h2⟩]
      · rw [if_neg h2, if_neg]
        rintro ⟨x, hx, e⟩
        rcases List.mem_cons.mp hx with rfl | hx
        · exact h2 e
        · exact h1 ⟨x, hx, e⟩

/-- A row inside video memory is not wrapped (rule R19). -/
theorem cellIndex_of_fits {p : Params} {row c : Nat} (h : (row + 1) * 512 ≤ p.vramCells) (hc : c < 512) :
    cellIndex p row c = row * 512 + c := by
  unfold cellIndex vramStride
  exact Nat.mod_eq_of_lt (by omega)

/-- Erasing a line whose row, and the reference row, lie inside video memory (rule R214): the row's cells
take the reference row's, every other cell, the reference row's too, keeps its value. -/
theorem eraseLine_read {p : Params} (line : Nat) {vram : Memory} (hw : vram.wf = true)
    (hl : (lineRowOf p line + 1) * 512 ≤ p.vramCells) (hr : (p.autoeraseRow + 1) * 512 ≤ p.vramCells)
    (k : Nat) :
    (eraseLine p vram line).read k =
      if k / 512 = lineRowOf p line then vram.read (p.autoeraseRow * 512 + k % 512) else vram.read k := by
  suffices h : ∀ (cs : List Nat) (m : Memory), (∀ c ∈ cs, c < 512) → m.wf = true →
      (∀ c < 512, m.read (p.autoeraseRow * 512 + c) = vram.read (p.autoeraseRow * 512 + c)) →
      (cs.foldl (fun m c => m.write (cellIndex p (lineRowOf p line) c)
        (m.read (cellIndex p p.autoeraseRow c))) m).read k =
        if k / 512 = lineRowOf p line ∧ k % 512 ∈ cs then vram.read (p.autoeraseRow * 512 + k % 512)
        else m.read k by
    have h := h (List.range 512) vram (fun c hc => List.mem_range.mp hc) hw (fun _ _ => rfl)
    have hk : k % 512 ∈ List.range 512 := List.mem_range.mpr (Nat.mod_lt _ (by omega))
    simpa only [hk, and_true, eraseLine, vramStride] using h
  intro cs
  induction cs with
  | nil => intro m _ _ _; simp
  | cons c cs ih =>
    intro m hcs hm href
    have hc : c < 512 := hcs c List.mem_cons_self
    rw [List.foldl_cons, cellIndex_of_fits hl hc, cellIndex_of_fits hr hc, href c hc,
      ih _ (fun x hx => hcs x (List.mem_cons_of_mem _ hx)) (Memory.wf_write hm _ _) ?_,
      Memory.read_write hm]
    · simp only [List.mem_cons]
      by_cases h1 : k / 512 = lineRowOf p line ∧ k % 512 ∈ cs
      · rw [if_pos h1, if_pos ⟨h1.1, .inr h1.2⟩]
      · rw [if_neg h1]
        by_cases h2 : k = lineRowOf p line * 512 + c
        · have e : k % 512 = c := by omega
          rw [if_pos h2, if_pos ⟨by omega, .inl e⟩, e]
        · rw [if_neg h2, if_neg]
          rintro ⟨h3, h4 | h4⟩
          · omega
          · exact h1 ⟨h3, h4⟩
    · intro x hx
      rw [Memory.read_write hm]
      split
      · rename_i e
        have : c = x := by omega
        rw [this]
      · exact href x hx

theorem eraseLine_wf {p : Params} (line : Nat) {vram : Memory} (hw : vram.wf = true) :
    (eraseLine p vram line).wf = true :=
  Memory.wf_foldl _ (fun _ _ h => Memory.wf_write h _ _) _ hw

/-- Erasing several lines, in any order and with repeats (rules R214, R218). -/
theorem eraseLines_read {p : Params} (ls : List Nat) {vram : Memory} (hw : vram.wf = true)
    (hl : ∀ l ∈ ls, (lineRowOf p l + 1) * 512 ≤ p.vramCells) (hr : (p.autoeraseRow + 1) * 512 ≤ p.vramCells)
    (k : Nat) :
    (ls.foldl (eraseLine p) vram).read k =
      if ∃ l ∈ ls, k / 512 = lineRowOf p l then vram.read (p.autoeraseRow * 512 + k % 512)
      else vram.read k := by
  induction ls generalizing vram with
  | nil => simp
  | cons l ls ih =>
    have h0 := eraseLine_read (p := p) l hw (hl l List.mem_cons_self) hr
    rw [List.foldl_cons, ih (eraseLine_wf l hw) fun x hx => hl x (List.mem_cons_of_mem _ hx)]
    have href : (eraseLine p vram l).read (p.autoeraseRow * 512 + k % 512) =
        vram.read (p.autoeraseRow * 512 + k % 512) := by
      rw [h0]
      have e : (p.autoeraseRow * 512 + k % 512) % 512 = k % 512 := by omega
      split <;> simp [e]
    by_cases h1 : ∃ x ∈ ls, k / 512 = lineRowOf p x
    · rw [if_pos h1, if_pos, href]
      obtain ⟨x, hx, e⟩ := h1
      exact ⟨x, List.mem_cons_of_mem _ hx, e⟩
    · rw [if_neg h1, h0]
      by_cases h2 : k / 512 = lineRowOf p l
      · rw [if_pos h2, if_pos ⟨l, List.mem_cons_self, h2⟩]
      · rw [if_neg h2, if_neg]
        rintro ⟨x, hx, e⟩
        rcases List.mem_cons.mp hx with rfl | hx
        · exact h2 e
        · exact h1 ⟨x, hx, e⟩

theorem eraseLines_wf {p : Params} (ls : List Nat) {vram : Memory} (hw : vram.wf = true) :
    (ls.foldl (eraseLine p) vram).wf = true :=
  Memory.wf_foldl _ (fun _ l h => eraseLine_wf l h) ls hw

/-- Everything the partial update does (rule R211). -/
theorem partialUpdate_eq (e : Nat) (s : State) :
    partialUpdate e s = { s with
      shadow := (partialUpdate e s).shadow
      nextLine := if s.nextLine ≤ e then e + 1 else s.nextLine } := rfl

/-- The shadow buffer after the partial update (rule R211). -/
theorem partialUpdate_shadow_read (e : Nat) {s : State} (hw : s.shadow.wf = true) (k : Nat) :
    (partialUpdate e s).shadow.read k =
      if ∃ l ∈ linesFromTo s.nextLine e, ∃ c < vramStride, k = cellIndex s.params (lineRowOf s.params l) c
      then s.vram.read k else s.shadow.read k :=
  copyLines_read (p := s.params) s.vram (linesFromTo s.nextLine e) hw k

/-- Everything the autoerase of a raster call does (rules R214, R215). -/
theorem autoErase_eq (e : Nat) (pageflip : Bool) (s : State) :
    autoErase e pageflip s = { s with
      vram := (autoErase e pageflip s).vram
      eraseDeferred := (autoErase e pageflip s).eraseDeferred
      eraseNext := if s.eraseNext ≤ e then e + 1 else s.eraseNext } := rfl

/-- The lines on record after the autoerase of a raster call (rule R215). -/
theorem autoErase_deferred (e : Nat) (pageflip : Bool) {s : State} (h : s.eraseDeferred.Pairwise (· < ·)) :
    (autoErase e pageflip s).eraseDeferred.Pairwise (· < ·) ∧
    ∀ l, l ∈ (autoErase e pageflip s).eraseDeferred ↔ l ∈ s.eraseDeferred ∨
      (s.autoeraseEn = true ∧ pageflip = true ∧ s.eraseNext ≤ l ∧ l ≤ e) := by
  unfold autoErase
  dsimp only
  split
  · rename_i hc
    obtain ⟨h1, h2⟩ := foldl_insertLine (linesFromTo s.eraseNext e) h
    refine ⟨h1, fun l => ?_⟩
    rw [h2, mem_linesFromTo]
    simp_all
  · rename_i hc
    refine ⟨h, fun l => ?_⟩
    simp_all

end Sys2Proof.Machine
end

