-- ==== Sys2Proof/Tests/Slice0.lean ====
section
/-! SUPPORT. Tests: decoding of words and calls written out from the spec's encodings, ill-formed terms, one
small step or two for each operation with the result the spec's vectors state (95_test_vectors.md), and a
witness for the hypotheses of each statement. -/

namespace Sys2Proof.Tests

open Sys2Proof Sys2Proof.Machine

/-- Both bytes enabled. -/
abbrev full : ByteMask := ⟨true, true⟩

/-- No field set: 8 bits for each pixel. -/
abbrev plain : BltFields := ⟨0, 0, 0, false, false, false⟩

/-- Four visible lines. -/
def board (f : Family) (rom : List Byte) : Params := { defaultParams f rom with visibleLast := 3 }

def fitted (f : Family) (c : Chip) : State := attached { board f [] with chip := some c }

def after (i : Instr) (s : State) : Option State :=
  match exec i s with
  | .next t => some t
  | _ => none

def afterAll (is : List Instr) (s : State) : Option State :=
  match runOps is s with
  | .next t => some t
  | _ => none

def context (c : Option Chip) : Context := { tableContext with chip := c }

def mk1 : Chip := defaultMk1 [0x13#6, 0x27#6, 0x0F#6]
def nbaJam : Chip :=
  defaultNbaJam (((Vector.replicate 128 0#32).set 5 0x12345678#32).set 127 0xFF800001#32)
def yUnit : Chip := defaultYUnit #v[0x0100#16, 0x0400#16, 0x0200#16] [0x1111#16, 0x2222#16] 0#16
def strikeForce : Chip := .yUnit #v[0, 0, 0] [] true 0x0123#16 []
def serial : Chip := defaultSerial #v[0xD0, 0xD1, 0xD2, 0xD3, 0xD4, 0xD5, 0xD6, 0xD7, 0xD8, 0xD9, 0xDA, 0xDB, 0xDC,
  0xDD, 0xDE, 0xDF]

/-! ### Decoding: words written out bit by bit from rule R83, calls from rule R81 -/

theorem test_decode_blt00 : decodeTableWord 16 0b1011011010000000 =
    some (.blt00 ⟨3, 1, 2, true, false, false⟩) := by decide
theorem test_decode_blt01 : decodeTableWord 16 0b1111100101100001 =
    some (.blt01 ⟨7, 2, 1, false, true, true⟩) := by decide
theorem test_decode_blt02 : decodeTableWord 16 0b1110010101000010 =
    some (.blt02 ⟨6, 1, 1, false, true, false⟩) := by decide
theorem test_decode_blt03 : decodeTableWord 16 0b1001010010100011 =
    some (.blt03 ⟨1, 1, 0, true, false, true⟩) := by decide
theorem test_decode_blt04 : decodeTableWord 16 0b1111111111000100 =
    some (.blt04 ⟨7, 3, 3, true, true, false⟩) := by decide
theorem test_decode_blt05 : decodeTableWord 16 0b1101000001000101 =
    some (.blt05 ⟨5, 0, 0, false, true, false⟩) := by decide
theorem test_decode_blt06 : decodeTableWord 16 0b1100111011100110 =
    some (.blt06 ⟨4, 3, 2, true, true, true⟩) := by decide
theorem test_decode_blt07 : decodeTableWord 16 0b1110011001000111 =
    some (.blt07 ⟨6, 1, 2, false, true, false⟩) := by decide
theorem test_decode_blt08 : decodeTableWord 16 0b1101000111001000 =
    some (.blt08 ⟨5, 0, 1, true, true, false⟩) := by decide
theorem test_decode_blt09 : decodeTableWord 16 0b1001111101001001 =
    some (.blt09 ⟨1, 3, 3, false, true, false⟩) := by decide
theorem test_decode_blt0A : decodeTableWord 16 0b1110010011101010 =
    some (.blt0A ⟨6, 1, 0, true, true, true⟩) := by decide
theorem test_decode_blt0B : decodeTableWord 16 0b1001000011101011 =
    some (.blt0B ⟨1, 0, 0, true, true, true⟩) := by decide
theorem test_decode_blt0C : decodeTableWord 16 0b1011001000001100 =
    some (.blt0C ⟨3, 0, 2, false, false, false⟩) := by decide
theorem test_decode_blt0D : decodeTableWord 16 0b1000011111001101 =
    some (.blt0D ⟨0, 1, 3, true, true, false⟩) := by decide
theorem test_decode_blt0E : decodeTableWord 16 0b1000101010101110 =
    some (.blt0E ⟨0, 2, 2, true, false, true⟩) := by decide
theorem test_decode_blt0F : decodeTableWord 16 0b1110111101101111 =
    some (.blt0F ⟨6, 3, 3, false, true, true⟩) := by decide
theorem test_decode_blt10 : decodeTableWord 16 0b1011101111110000 =
    some (.blt10 ⟨3, 2, 3, true, true, true⟩) := by decide
theorem test_decode_blt11 : decodeTableWord 16 0b1000111001010001 =
    some (.blt11 ⟨0, 3, 2, false, true, false⟩) := by decide
theorem test_decode_blt12 : decodeTableWord 16 0b1000101111110010 =
    some (.blt12 ⟨0, 2, 3, true, true, true⟩) := by decide
theorem test_decode_blt13 : decodeTableWord 16 0b1111000001110011 =
    some (.blt13 ⟨7, 0, 0, false, true, true⟩) := by decide
theorem test_decode_blt14 : decodeTableWord 16 0b1111101001010100 =
    some (.blt14 ⟨7, 2, 2, false, true, false⟩) := by decide
theorem test_decode_blt15 : decodeTableWord 16 0b1101101011010101 =
    some (.blt15 ⟨5, 2, 2, true, true, false⟩) := by decide
theorem test_decode_blt16 : decodeTableWord 16 0b1000011001010110 =
    some (.blt16 ⟨0, 1, 2, false, true, false⟩) := by decide
theorem test_decode_blt17 : decodeTableWord 16 0b1101011100110111 =
    some (.blt17 ⟨5, 1, 3, false, false, true⟩) := by decide
theorem test_decode_blt18 : decodeTableWord 16 0b1101011100111000 =
    some (.blt18 ⟨5, 1, 3, false, false, true⟩) := by decide
theorem test_decode_blt19 : decodeTableWord 16 0b1011111000011001 =
    some (.blt19 ⟨3, 3, 2, false, false, false⟩) := by decide
theorem test_decode_blt1A : decodeTableWord 16 0b1011100111011010 =
    some (.blt1A ⟨3, 2, 1, true, true, false⟩) := by decide
theorem test_decode_blt1B : decodeTableWord 16 0b1101011111111011 =
    some (.blt1B ⟨5, 1, 3, true, true, true⟩) := by decide
theorem test_decode_blt1C : decodeTableWord 16 0b1101111011011100 =
    some (.blt1C ⟨5, 3, 2, true, true, false⟩) := by decide
theorem test_decode_blt1D : decodeTableWord 16 0b1110010101111101 =
    some (.blt1D ⟨6, 1, 1, false, true, true⟩) := by decide
theorem test_decode_blt1E : decodeTableWord 16 0b1011001111011110 =
    some (.blt1E ⟨3, 0, 3, true, true, false⟩) := by decide
theorem test_decode_blt1F : decodeTableWord 16 0b1001100000011111 =
    some (.blt1F ⟨1, 2, 0, false, false, false⟩) := by decide
theorem test_decode_stop : decodeTableWord 16 0b0111111111111111 = some (.dmaStop 0x7FFF#15) := by decide
theorem test_decode_empty : decodeTableWord 0 0 = none := by decide

theorem test_decode_dma :
    decode tableContext (.port .register .W 0x14 0xABCD#16 0xFF00#16) =
      .ok (.dmaWr 0x14 0xABCD#16 ⟨false, true⟩) ∧
    decode tableContext (.port .register .R 0x1E 0#16 0xFFFF#16) = .ok (.dmaRd 0x1E) ∧
    decode tableContext (.event .completion) = .ok .dmaDone := by decide

/-- V7: a low-byte write while bit 15 is still 1 is a go command again. -/
theorem test_decode_merged :
    decode { tableContext with command := 0x8003#16 } (.port .register .W 14 0x0002#16 0x00FF#16) =
      .ok (.blt02 plain) := by decide

theorem test_decode_video :
    decode tableContext (.port .control .W 0 0x00E0#16 0xFFFF#16) = .ok (.ctrlWr 0x00E0#16 full) ∧
    decode tableContext (.port .vram .W 0x3FFFF 0x0201#16 0x0000#16) =
      .ok (.vramWr 0x3FFFF 0x0201#16 ⟨false, false⟩) ∧
    decode tableContext (.port .vram .R 0x202 0#16 0xFFFF#16) = .ok (.vramRd 0x202) ∧
    decode tableContext (.port .palette .W 3 0x7C00#16 0xFFFF#16) = .ok (.palWr 3 0x7C00#16) ∧
    decode tableContext (.event (.displayInterrupt (-5) true)) = .ok (.vidLine (-5) true) ∧
    decode tableContext (.event (.endOfFrame false)) = .ok (.vidEof false) ∧
    decode tableContext (.event (.shiftRegisterToHost 0x1000)) = .ok (.srToHost 0x1000) := by decide

theorem test_decode_shift_in (b : ShiftBuffer) :
    decode tableContext (.event (.shiftRegisterFromHost 8 b)) = .ok (.srFromHost 8 b) := rfl

theorem test_decode_cmos :
    decode tableContext (.port .cmos .R 0x10 0#16 0xFFFF#16) = .ok (.cmosRd 0x10) ∧
    decode tableContext (.port .cmos .W 0x10 0x1234#16 0x00FF#16) =
      .ok (.cmosWr 0x10 0x1234#16 ⟨true, false⟩) ∧
    decode tableContext (.port .cmosEnable .W 0 0x0800#16 0xFFFF#16) = .ok (.cmosEn 0x0800#16) ∧
    decode tableContext (.event (.saveStateLoad (some [0x34#8]))) = .ok (.cmosLoad (some [0x34#8])) ∧
    decode tableContext (.event .saveStateSave) = .ok .cmosSave := by decide

theorem test_decode_prot12 :
    decode (context (some mk1)) (.port (.protection .plain) .R 0 0#16 0xFFFF#16) = .ok .prot1Rd ∧
    decode (context (some mk1)) (.port (.protection .plain) .W 0 0x1E00#16 0x00FF#16) =
      .ok (.prot1Wr 0x1E00#16 ⟨true, false⟩) ∧
    decode (context (some .mk2)) (.port (.protection .latch) .R 0 0#16 0xFFFF#16) = .ok .prot2Rd ∧
    decode (context (some .mk2)) (.port (.protection .shifted) .R 0 0#16 0xFFFF#16) = .ok .prot2RdSh ∧
    decode (context (some .mk2)) (.port (.protection .constant) .R 0 0#16 0xFFFF#16) = .ok .prot2RdC ∧
    decode (context (some .mk2)) (.port (.protection .plain) .W 0 0xABCD#16 0xFF00#16) =
      .ok (.prot2Wr 0xABCD#16 ⟨false, true⟩) := by decide

theorem test_decode_prot345 :
    decode (context (some nbaJam)) (.port (.protection .plain) .R 0 0#16 0xFFFF#16) = .ok .prot3Rd ∧
    decode (context (some nbaJam)) (.port (.protection .plain) .W 0x140 0xAB55#16 0xFFFF#16) =
      .ok (.prot3Wr 0x140 0xAB55#16) ∧
    decode (context (some yUnit)) (.port (.protection .enable) .W 0 0x0800#16 0xFFFF#16) =
      .ok (.prot4Wr 0x0800#16) ∧
    decode (context (some yUnit)) (.port (.protection .plain) .R 0 0#16 0xFFFF#16) = .ok .prot4Rd ∧
    decode (context (some serial)) (.port (.protection .plain) .W 0 0x1F#16 0xFFFF#16) =
      .ok (.prot5Wr 0x1F#16) ∧
    decode (context (some serial)) (.port (.protection .plain) .R 0 0#16 0xFFFF#16) = .ok .prot5Rd ∧
    decode (context (some serial)) (.port (.protection .status) .R 0 0#16 0xFFFF#16) =
      .ok .prot5Status := by decide

theorem test_decode_reset :
    decode tableContext (.event (.attach (board .Y []) none)) = .ok (.reset (board .Y []) none) := by decide

theorem test_decode_rejects :
    decode tableContext (.port .register .W 0 0#16 0x0FF0#16) = .error .badMask ∧
    decode tableContext (.port .control .R 0 0#16 0xFFFF#16) = .error .noSuchAccess ∧
    decode tableContext (.port (.protection .plain) .R 0 0#16 0xFFFF#16) = .error .noSuchProtection ∧
    decode (context (some .mk2)) (.port (.protection .plain) .R 0 0#16 0xFFFF#16) = .error .noSuchProtection ∧
    decode tableContext (.event (.attach { board .Y [] with vramCells := 0 } none)) =
      .error .badParameters ∧
    decode { tableContext with live := false } (.port .vram .R 0 0#16 0xFFFF#16) = .error .noContext := by
  decide

/-- A write to chip 3, 4 or 5 or to the enable port takes the whole word, whatever its mask (log 20). -/
theorem test_decode_maskless :
    decode (context (some nbaJam)) (.port (.protection .plain) .W 0x140 0xAB55#16 0x0000#16) =
      .ok (.prot3Wr 0x140 0xAB55#16) ∧
    decode (context (some yUnit)) (.port (.protection .enable) .W 0 0x0800#16 0x00FF#16) =
      .ok (.prot4Wr 0x0800#16) ∧
    decode (context (some serial)) (.port (.protection .plain) .W 0 0x1F#16 0xFF00#16) =
      .ok (.prot5Wr 0x1F#16) ∧
    decode tableContext (.port .cmosEnable .W 0 0x1234#16 0x0FF0#16) = .ok (.cmosEn 0x1234#16) := by decide

/-! ### Ill-formed terms, one for each check -/

theorem test_wf_good : (board .T [0x12#8]).wf = true ∧ (fitted .Wolf serial).params.wf = true := by decide
theorem test_wf_vramCells : { board .T [] with vramCells := 0 }.wf = false := by decide
theorem test_wf_cmosPageWords : { board .T [] with cmosPageWords := 0 }.wf = false := by decide
theorem test_wf_palEntries : { board .T [] with palEntries := 0 }.wf = false := by decide
theorem test_wf_visible : { board .T [] with visibleFirst := 4 }.wf = false := by decide
theorem test_wf_lookups : { board .Y [] with fwdLookup := [(1#16, 2#16)] }.wf = false := by decide
theorem test_wf_chip1_empty : (fitted .T (.mk1 [] 9)).params.wf = false := by decide
theorem test_wf_chip4_unmasked :
    (fitted .Y (.yUnit #v[0x1100, 0, 0] [] false 0#16 [])).params.wf = false := by decide
theorem test_wf_chip_family : (fitted .T serial).params.wf = false := by decide
theorem test_wf_command_offset : (Instr.dmaWr 14 0#16 full).wf tableContext = false := by decide
theorem test_wf_command_unreachable :
    (Instr.blt06 plain).wf { tableContext with regMap := Vector.replicate 16 0 } = false ∧
    (Instr.dmaStop 0#15).wf { tableContext with regMap := Vector.replicate 16 0 } = false := by decide
theorem test_wf_chip_absent :
    Instr.prot1Rd.wf tableContext = false ∧ Instr.prot2RdC.wf (context (some mk1)) = false ∧
    (Instr.prot3Wr 0 0#16).wf tableContext = false ∧ Instr.prot4Rd.wf tableContext = false ∧
    Instr.prot5Status.wf (context (some yUnit)) = false := by decide
theorem test_wf_no_context :
    (Instr.vramRd 0).wf { tableContext with live := false } = false ∧
    Instr.cmosSave.wf { tableContext with live := false } = false ∧
    (Instr.blt06 plain).wf { tableContext with live := false } = false := by decide
theorem test_wf_reset_parameters :
    (Instr.reset { board .T [] with palEntries := 0 } none).wf tableContext = false := by decide

/-! ### The DMA port and completion -/

/-- Clips open, one source pixel of value 9; timer mode. -/
def timed : State :=
  { attached { board .T [0x09#8] with fastDma := false } with
    dma := #v[0, 0, 0, 0, 1, 1, 0, 0, 0, 0x1FF, 0, 0x3FF, 0, 0, 0, 0] }

/-- V1, V4. -/
theorem test_dmaWr_merges :
    (after (.dmaWr 4 0xABCD#16 ⟨true, false⟩) { timed with dma := timed.dma.set 4 0x1234 }).map
      (fun t => readReg t 4) = some 0x12CD#16 ∧
    (after (.dmaWr 0x14 0x0055#16 full) timed).map (fun t => readReg t 4) = some 0x55#16 := by decide

/-- V58: a go command through the register port. -/
theorem test_dmaWr_go :
    (after (.dmaWr 14 0x8003#16 full) timed).map (fun t => (t.vram, readReg t 14, t.irq, t.timers)) =
      some ([(0, 0x0009#16)], 0x8003#16, false, 1) := by decide

/-- V5. -/
theorem test_dmaRd :
    (afterAll [.dmaWr 5 0xFFFF#16 full, .dmaRd 5] timed).map (·.out) = some (some (.word 0xFFFF#16)) := by
  decide

/-- V60 (rule R126): the stop keeps the completion in flight, which fires later. -/
theorem test_dmaStop :
    (afterAll [.blt03 plain, .dmaStop 0x1234#15] timed).map (fun t => (readReg t 14, t.irq, t.timers)) =
      some (0x1234#16, false, 1) ∧
    (afterAll [.blt03 plain, .dmaStop 0#15, .dmaDone] timed).map
      (fun t => (readReg t 14, t.irq, t.timers)) = some (0#16, true, 0) := by decide

/-- V62: the first completion clears the second command's busy bit. -/
theorem test_dmaDone :
    (afterAll [.blt03 plain, .blt03 plain, .dmaDone] timed).map
      (fun t => (readReg t 14, t.irq, t.timers)) = some (0x0003#16, true, 1) := by decide

/-- Rules R130, R291: in fast mode, and with none in flight, the event does nothing, from reset too. -/
theorem test_dmaDone_not_enabled :
    (after .dmaDone State.reset).map (fun t => (t.irq, t.timers)) = some (false, 0) ∧
    (after .dmaDone { State.reset with dma := State.reset.dma.set 14 0x8000 }).map
      (fun t => (readReg t 14, t.irq)) = some (0x8000#16, false) ∧
    (after .dmaDone timed).map (fun t => (t.irq, t.timers)) = some (false, 0) := by decide

/-! ### The 32 modes: the example of each of rules R160 to R191 -/

def modeState : State :=
  { attached (board .T [0x00#8, 0x05#8]) with
    dma := #v[0, 0, 10, 0, 2, 1, 0x0100, 0x0022, 0, 0x1FF, 0, 0x3FF, 0, 0, 0, 0]
    vram := [(9, 0xFFFF#16), (10, 0xFFFF#16), (11, 0xFFFF#16)] }

def modeCells (i : Instr) : Option (Memory × Word × Bool) :=
  (after i modeState).map fun t => (t.vram, readReg t 14, t.irq)

theorem test_blt00 : modeCells (.blt00 plain) =
    some ([(9, 0xFFFF#16), (10, 0xFFFF#16), (11, 0xFFFF#16)], 0x0000#16, true) := by decide
theorem test_blt01 : modeCells (.blt01 plain) =
    some ([(9, 0xFFFF#16), (10, 0x0100#16), (11, 0xFFFF#16)], 0x0001#16, true) := by decide
theorem test_blt02 : modeCells (.blt02 plain) =
    some ([(9, 0xFFFF#16), (10, 0xFFFF#16), (11, 0x0105#16)], 0x0002#16, true) := by decide
theorem test_blt03 : modeCells (.blt03 plain) =
    some ([(9, 0xFFFF#16), (10, 0x0100#16), (11, 0x0105#16)], 0x0003#16, true) := by decide
theorem test_blt04 : modeCells (.blt04 plain) =
    some ([(9, 0xFFFF#16), (10, 0x0122#16), (11, 0xFFFF#16)], 0x0004#16, true) := by decide
theorem test_blt05 : modeCells (.blt05 plain) =
    some ([(9, 0xFFFF#16), (10, 0x0122#16), (11, 0xFFFF#16)], 0x0005#16, true) := by decide
theorem test_blt06 : modeCells (.blt06 plain) =
    some ([(9, 0xFFFF#16), (10, 0x0122#16), (11, 0x0105#16)], 0x0006#16, true) := by decide
theorem test_blt07 : modeCells (.blt07 plain) =
    some ([(9, 0xFFFF#16), (10, 0x0122#16), (11, 0x0105#16)], 0x0007#16, true) := by decide
theorem test_blt08 : modeCells (.blt08 plain) =
    some ([(9, 0xFFFF#16), (10, 0xFFFF#16), (11, 0x0122#16)], 0x0008#16, true) := by decide
theorem test_blt09 : modeCells (.blt09 plain) =
    some ([(9, 0xFFFF#16), (10, 0x0100#16), (11, 0x0122#16)], 0x0009#16, true) := by decide
theorem test_blt0A : modeCells (.blt0A plain) =
    some ([(9, 0xFFFF#16), (10, 0xFFFF#16), (11, 0x0122#16)], 0x000A#16, true) := by decide
theorem test_blt0B : modeCells (.blt0B plain) =
    some ([(9, 0xFFFF#16), (10, 0x0100#16), (11, 0x0122#16)], 0x000B#16, true) := by decide
theorem test_blt0C : modeCells (.blt0C plain) =
    some ([(9, 0xFFFF#16), (10, 0x0122#16), (11, 0x0122#16)], 0x000C#16, true) := by decide
theorem test_blt0D : modeCells (.blt0D plain) =
    some ([(9, 0xFFFF#16), (10, 0x0122#16), (11, 0x0122#16)], 0x000D#16, true) := by decide
theorem test_blt0E : modeCells (.blt0E plain) =
    some ([(9, 0xFFFF#16), (10, 0x0122#16), (11, 0x0122#16)], 0x000E#16, true) := by decide
theorem test_blt0F : modeCells (.blt0F plain) =
    some ([(9, 0xFFFF#16), (10, 0x0122#16), (11, 0x0122#16)], 0x000F#16, true) := by decide
theorem test_blt10 : modeCells (.blt10 plain) =
    some ([(9, 0xFFFF#16), (10, 0xFFFF#16), (11, 0xFFFF#16)], 0x0010#16, true) := by decide
theorem test_blt11 : modeCells (.blt11 plain) =
    some ([(9, 0xFFFF#16), (10, 0x0100#16), (11, 0xFFFF#16)], 0x0011#16, true) := by decide
theorem test_blt12 : modeCells (.blt12 plain) =
    some ([(9, 0x0105#16), (10, 0xFFFF#16), (11, 0xFFFF#16)], 0x0012#16, true) := by decide
theorem test_blt13 : modeCells (.blt13 plain) =
    some ([(9, 0x0105#16), (10, 0x0100#16), (11, 0xFFFF#16)], 0x0013#16, true) := by decide
theorem test_blt14 : modeCells (.blt14 plain) =
    some ([(9, 0xFFFF#16), (10, 0x0122#16), (11, 0xFFFF#16)], 0x0014#16, true) := by decide
theorem test_blt15 : modeCells (.blt15 plain) =
    some ([(9, 0xFFFF#16), (10, 0x0122#16), (11, 0xFFFF#16)], 0x0015#16, true) := by decide
theorem test_blt16 : modeCells (.blt16 plain) =
    some ([(9, 0x0105#16), (10, 0x0122#16), (11, 0xFFFF#16)], 0x0016#16, true) := by decide
theorem test_blt17 : modeCells (.blt17 plain) =
    some ([(9, 0x0105#16), (10, 0x0122#16), (11, 0xFFFF#16)], 0x0017#16, true) := by decide
theorem test_blt18 : modeCells (.blt18 plain) =
    some ([(9, 0x0122#16), (10, 0xFFFF#16), (11, 0xFFFF#16)], 0x0018#16, true) := by decide
theorem test_blt19 : modeCells (.blt19 plain) =
    some ([(9, 0x0122#16), (10, 0x0100#16), (11, 0xFFFF#16)], 0x0019#16, true) := by decide
theorem test_blt1A : modeCells (.blt1A plain) =
    some ([(9, 0x0122#16), (10, 0xFFFF#16), (11, 0xFFFF#16)], 0x001A#16, true) := by decide
theorem test_blt1B : modeCells (.blt1B plain) =
    some ([(9, 0x0122#16), (10, 0x0100#16), (11, 0xFFFF#16)], 0x001B#16, true) := by decide
theorem test_blt1C : modeCells (.blt1C plain) =
    some ([(9, 0x0122#16), (10, 0x0122#16), (11, 0xFFFF#16)], 0x001C#16, true) := by decide
theorem test_blt1D : modeCells (.blt1D plain) =
    some ([(9, 0x0122#16), (10, 0x0122#16), (11, 0xFFFF#16)], 0x001D#16, true) := by decide
theorem test_blt1E : modeCells (.blt1E plain) =
    some ([(9, 0x0122#16), (10, 0x0122#16), (11, 0xFFFF#16)], 0x001E#16, true) := by decide
theorem test_blt1F : modeCells (.blt1F plain) =
    some ([(9, 0x0122#16), (10, 0x0122#16), (11, 0xFFFF#16)], 0x001F#16, true) := by decide

/-! ### The blitter's fields -/

def drawState (rom : List Byte) (dma : Vector Word 16) : State := { attached (board .T rom) with dma := dma }

/-- V29: 6 bits for each pixel, straddling bytes. -/
theorem test_depth : (after (.blt03 { plain with bpp := 6 })
    (drawState [0x81, 0x30, 0xFC] #v[0, 0, 0, 0, 4, 1, 0x0500, 0, 0, 0x1FF, 0, 0x3FF, 0, 0, 0, 0])).map (·.vram) =
      some [(0, 0x0501#16), (1, 0x0502#16), (2, 0x0503#16), (3, 0x053F#16)] := by decide

/-- V35: y-flip wraps from row 0 to row 511. -/
theorem test_yflip : (after (.blt03 { plain with yflip := true })
    (drawState [1, 2, 3, 4] #v[0, 0, 0, 0, 2, 2, 0, 0, 0, 0x1FF, 0, 0x3FF, 0, 0, 0, 0])).map (·.vram) =
      some [(0, 1#16), (1, 2#16), (511 * 512, 3#16), (511 * 512 + 1, 4#16)] := by decide

/-- V34: x-flip wraps from column 0 to column 1023. -/
theorem test_xflip : (after (.blt13 plain)
    (drawState [1, 2, 3] #v[0, 0, 1, 0, 3, 1, 0, 0, 0, 0x1FF, 0, 0x3FF, 0, 0, 0, 0])).map (·.vram) =
      some [(0, 2#16), (1, 1#16), (1023, 3#16)] := by decide

/-- V41: a step of one and a half source pixels. -/
theorem test_scale : (after (.blt03 plain)
    (drawState [1, 2, 3, 4] #v[0, 0, 0, 0, 4, 1, 0, 0, 0, 0x1FF, 0, 0x3FF, 0x180, 0, 0, 0])).map (·.vram) =
      some [(0, 1#16), (1, 2#16), (2, 4#16)] := by decide

/-- V53, V54: the drop variant of the horizontal clip. -/
theorem test_clip_drop :
    (after (.blt03 { plain with clipDrop := true })
      (drawState [1, 2, 3] #v[0, 0, 8, 5, 3, 1, 0, 0, 0, 0x1FF, 9, 20, 0, 0, 0, 0])).map (·.vram) = some [] ∧
    (after (.blt03 { plain with clipDrop := true })
      (drawState [1, 2, 3] #v[0, 0, 9, 5, 3, 1, 0, 0, 0, 0x1FF, 9, 20, 0, 0, 0, 0])).map (·.vram) =
      some [(2569, 1#16), (2570, 2#16), (2571, 3#16)] := by decide

/-- Rule R89, R142: control byte `0x11` skips one pixel at either end of four. -/
theorem test_skip : (after (.blt03 { plain with skipEn := true })
    (drawState [0x11, 0xA, 0xB] #v[0, 0, 10, 0, 4, 1, 0, 0, 0, 0x1FF, 0, 0x3FF, 0, 0, 0, 0])).map (·.vram) =
      some [(11, 0xA#16), (12, 0xB#16)] := by decide

/-- V50, V51: skip mode under each scale. -/
theorem test_skip_scaled :
    (after (.blt03 { plain with skipEn := true }) (drawState [0x10, 0x01, 0x02, 0x00, 0x03, 0x04, 0x05, 0x02, 0x06]
      #v[0, 0, 0, 0, 3, 3, 0, 0, 0, 0x1FF, 0, 0x3FF, 0, 0x200, 0, 0])).map (·.vram) =
      some [(0, 1#16), (1, 2#16), (514, 6#16)] ∧
    (after (.blt03 { plain with skipEn := true }) (drawState [0x02, 0x0A, 0x0B, 0x0C, 0x0D, 0x0E, 0x0F]
      #v[0, 0, 0, 0, 8, 1, 0, 0, 0, 0x1FF, 0, 0x3FF, 0x200, 0, 0, 0])).map (·.vram) =
      some [(1, 0xA#16), (2, 0xC#16), (3, 0xE#16)] := by decide

/-- V32: a source out of the window draws nothing and completes. -/
theorem test_out_of_window : (after (.blt03 plain)
    (drawState [1, 2] #v[16, 0, 0, 0, 1, 1, 0, 0, 0, 0x1FF, 0, 0x3FF, 0, 0, 0, 0])).map
      (fun t => (t.vram, readReg t 14, t.irq)) = some ([], 0x0003#16, true) := by decide

/-- V18 to V25. -/
theorem test_romBits :
    [(0, 2), (2, 2), (4, 2), (6, 2), (0, 8), (8, 8), (4, 8), (7, 6), (12, 6), (16, 4), (20, 4), (23, 1), (3, 5),
      (1, 7)].map (fun c => romBits (board .T [0xE4, 0x1B, 0xA5]) (BitVec.ofNat 32 c.1) c.2) =
    [0, 1, 2, 3, 0xE4, 0x1B, 0xBE, 0x37, 0x11, 0x5, 0xA, 1, 0x1C, 0x72] := by decide

/-- P1, its command: the placed word `0xC012` runs at the very next step. -/
theorem test_withFetchWord :
    (match step ({ timed with params := board .T [0x09#8] }.withFetchWord 16 0xC012) with
      | .next t => some (t.vram, readReg t 14, t.irq, t.pending)
      | _ => none) = some ([(0, 0x0009#16)], 0x4012#16, true, []) := by decide

theorem test_reset_runs_stop :
    (match step (State.reset.withFetchWord 16 0x1234) with
      | .next t => some (readReg t 14)
      | _ => none) = some 0x1234#16 := by decide

/-! ### Control write, video memory, palette, compositor -/

/-- V66, V68. -/
theorem test_ctrlWr :
    (after (.ctrlWr 0x00E0#16 full) (attached (board .Y []))).map
      (fun t => (t.bankSelect, t.autoeraseEn, t.cmosPage)) = some (false, true, 0x3000) ∧
    (after (.ctrlWr 0x00E0#16 full) (attached (board .T []))).map
      (fun t => (t.bankSelect, t.autoeraseEn, t.cmosPage)) = some (true, true, 0) := by decide

/-- T, `PALETTE = 0x2211`, the pixel bank. -/
def banked (b : Bool) (vram : Memory) : State :=
  { attached (board .T []) with
    dma := (attached (board .T [])).dma.set 6 0x2211
    bankSelect := b
    vram := vram }

/-- V69, V71. -/
theorem test_vramWr :
    (after (.vramWr 0x100 0xBBAA#16 full) (banked true [])).map (·.vram) =
      some [(0x200, 0x11AA#16), (0x201, 0x22BB#16)] ∧
    (after (.vramWr 0x100 0x7766#16 ⟨false, true⟩) (banked false [(0x200, 0x11AA#16), (0x201, 0x22BB#16)])).map
      (·.vram) = some [(0x200, 0x11AA#16), (0x201, 0x77BB#16)] := by decide

/-- V74: the offset wraps modulo the store. -/
theorem test_vramWr_wraps :
    (after (.vramWr 0x40000 0x0403#16 full) (banked true [])).map (·.vram) =
      some [(0, 0x1103#16), (1, 0x2204#16)] := by decide

/-- V69, V70. -/
theorem test_vramRd :
    (after (.vramRd 0x100) (banked true [(0x200, 0x11AA#16), (0x201, 0x22BB#16)])).map (·.out) =
      some (some (.word 0xBBAA#16)) ∧
    (after (.vramRd 0x100) (banked false [(0x200, 0x11AA#16), (0x201, 0x22BB#16)])).map (·.out) =
      some (some (.word 0x2211#16)) := by decide

/-- Rule R206 with tables that are not the identity. -/
theorem test_vramWr_lookup :
    (after (.vramWr 0 0x0005#16 ⟨true, false⟩) (attached { board .Y [] with
      fwdLookup := [(5#16, 0x7777#16)], revLookup := [(0x7777#16, 5#16)] })).map (·.vram) =
      some [(0, 0x7777#16)] := by decide

/-- V79, V82. -/
theorem test_palWr :
    (after (.palWr 3 0x4210#16) (attached (board .T []))).map (fun t => (t.palram, t.out)) =
      some ([(3, 0x4210#16)], some (.colour 3 132 132 132)) ∧
    (after (.palWr 3 0x8000#16) (attached (board .T []))).map (fun t => (t.palram, t.out)) =
      some ([(3, 0x8000#16)], some (.colour 3 0 0 0)) := by decide

/-- The vectors' frame: `vram[(r,0)] = 0x10 + r` for the four visible rows. -/
def framed (f : Family) : State :=
  { attached (board f []) with
    vram := [(0, 0x10#16), (512, 0x11#16), (1024, 0x12#16), (1536, 0x13#16)] }

/-- V83. -/
theorem test_vidLine_pageflip :
    (after (.vidLine 1 true) (framed .Y)).map
      (fun t => (t.shadow, t.vram.length, t.eraseDeferred, t.nextLine, t.eraseNext)) =
      some ([(0, 0x10#16), (512, 0x11#16)], 4, [0, 1], 2, 2) := by decide +kernel

/-- Rule R214: the shadow-buffer mode erases at once; rule R219: T does nothing. -/
theorem test_vidLine_erases :
    (after (.vidLine 0 false) (framed .Y)).map (fun t => (t.shadow, t.vram)) =
      some ([(0, 0x10#16)], [(512, 0x11#16), (1024, 0x12#16), (1536, 0x13#16)]) ∧
    (after (.vidLine 0 false) (framed .T)).map (fun t => (t.shadow, t.vram.length)) = some ([], 4) := by
  decide +kernel

/-- V84, for one visible line and a deferred one: the flush copies, then erases. -/
theorem test_vidEof :
    (after (.vidEof true) { framed .Y with params := { board .Y [] with visibleLast := 0 } }).map
      (fun t => (t.shadow, t.vram, t.eraseDeferred, t.nextLine, t.eraseNext)) =
      some ([(0, 0x10#16)], [(512, 0x11#16), (1024, 0x12#16), (1536, 0x13#16)], [], 0, 0) := by
  decide +kernel

/-- V88: `SR.TOHOST 0x1000` starts at cell `0x200`. -/
theorem test_srToHost :
    (after (.srToHost 0x1000) (framed .T)).map (fun t => match t.out with
      | some (.buffer ws) => (ws.length, ws.head?, ws[512]?)
      | _ => (0, none, none)) = some (1024, some 0x11#16, some 0x12#16) := by decide +kernel

/-- Rule R225: whole cells, from bit address 0. -/
theorem test_srFromHost :
    (after (.srFromHost 0 (Vector.replicate 1024 0#16)) (framed .T)).map (·.vram) =
      some [(1024, 0x12#16), (1536, 0x13#16)] := by decide +kernel

/-! ### The CMOS controller -/

/-- V89: the source's page scenario. -/
theorem test_cmosRd :
    (afterAll [.ctrlWr 0x80#16 full, .cmosEn 0#16, .cmosWr 0x10 0x1234#16 full, .ctrlWr 0#16 full, .cmosEn 0#16,
      .cmosWr 0x10 0x5678#16 full, .ctrlWr 0x80#16 full, .cmosRd 0x10] (attached (board .Y []))).map
      (fun t => (t.cmos, t.out)) =
      some ([(0x0010, 0x5678#16), (0x2010, 0x1234#16)], some (.word 0x1234#16)) := by decide

/-- V92, V93. -/
theorem test_cmosWr :
    (afterAll [.ctrlWr 0xC0#16 full, .cmosEn 0#16, .cmosWr 0x1005 0x4242#16 full] (attached (board .Y []))).map
      (·.cmos) = some [(5, 0x4242#16)] ∧
    (afterAll [.cmosWr 5 0x1111#16 full, .cmosWr 5 0x2222#16 ⟨true, false⟩] (attached (board .T []))).map
      (·.cmos) = some [(5, 0x1122#16)] := by decide

/-- V94: a flag, not a counter. -/
theorem test_cmosEn :
    (afterAll [.cmosEn 0#16, .cmosEn 0#16, .cmosWr 0 0xAAAA#16 full, .cmosWr 1 0xBBBB#16 full]
      (attached (board .Wolf []))).map (fun t => (t.cmos, t.cmosWe)) =
      some ([(0, 0xAAAA#16)], false) := by decide

/-- V95, V96. -/
theorem test_cmosLoad :
    (after (.cmosLoad (some [0x34, 0x12, 0x78, 0x56])) (attached (board .T []))).map (·.cmos) =
      some [(0, 0x1234#16), (1, 0x5678#16)] ∧
    (after (.cmosLoad none) { attached (board .T []) with cmos := [(7, 1#16)] }).map (·.cmos) = some [] := by
  decide

/-- Rule R236, on a store of two words. -/
theorem test_cmosSave :
    (after .cmosSave { attached { board .T [] with cmosPageWords := 2 } with cmos := [(1, 0x5678#16)] }).map
      (·.out) = some (some (.blob [0x00, 0x00, 0x78, 0x56])) := by decide

/-- Rule R302: a detach hands out the store and drops the completions; after it only an attach is carried
out. -/
theorem test_detach :
    (match step { timed with
        params := { timed.params with cmosPageWords := 1 }
        cmos := [(0, 0x5678#16)]
        timers := 2
        pending := [.event .detach, .event .completion] } with
      | .next t => (t.out, t.timers, t.live, match step t with
        | .refused r => some r
        | _ => none)
      | _ => (none, 0, true, none)) =
      (some (.blob [0x78, 0x56]), 0, false, some (.undecodable .noContext)) := by decide

theorem test_attach_after_detach :
    (match step { destroyContext timed with pending := [.event (.attach (board .Y []) none)] } with
      | .next t => (t.live, t.params.family, t.pending)
      | _ => (false, .T, [])) = (true, .Y, []) := by decide

/-- Rule R6's defaults for the chips' own parameters. -/
theorem test_chip_defaults :
    mk1 = .mk1 [0x13#6, 0x27#6, 0x0F#6] 9 ∧
    (∃ table, nbaJam = .nbaJam table 6 0x00FF#16) ∧
    yUnit = .yUnit #v[0x0100, 0x0400, 0x0200] [0x1111#16, 0x2222#16] false 0#16 [] ∧
    (∃ data, serial = .serial data 0x80#8) := ⟨rfl, ⟨_, rfl⟩, rfl, ⟨_, rfl⟩⟩

/-! ### The protection chips -/

/-- V97. -/
theorem test_prot1Rd :
    (afterAll [.prot1Rd, .prot1Rd, .prot1Rd, .prot1Rd] (fitted .T mk1)).map (fun t => (t.out, t.p1Cursor)) =
      some (some (.word 0x2600#16), 1) := by decide

/-- V98, V100. -/
theorem test_prot1Wr :
    (after (.prot1Wr 0x1E00#16 full) (fitted .T mk1)).map (·.p1Cursor) = some 2 ∧
    (after (.prot1Wr 0x4E00#16 ⟨true, false⟩) { fitted .T mk1 with p1Cursor := 2 }).map (·.p1Cursor) =
      some 2 := by decide

/-- V103. -/
theorem test_prot2_reads :
    [Instr.prot2Rd, .prot2RdSh, .prot2RdC].map (fun i =>
      (after i { fitted .T .mk2 with p2Latch := 0x8001#16 }).map (·.out)) =
      [some (some (.word 0x8001#16)), some (some (.word 0x4000#16)), some (some (.word 2#16))] := by decide

/-- V104. -/
theorem test_prot2Wr :
    (after (.prot2Wr 0xABCD#16 ⟨false, true⟩) { fitted .T .mk2 with p2Latch := 0x8001#16 }).map (·.p2Latch) =
      some 0xAB01#16 := by decide

/-- V106. -/
theorem test_prot3Rd :
    (afterAll [.prot3Wr 0x140 0xAB55#16, .prot3Rd, .prot3Rd] (fitted .T nbaJam)).map
      (fun t => (t.out, t.p3Cursor)) = some (some (.word 0x2400#16), 2) := by decide

/-- V106, V107. -/
theorem test_prot3Wr :
    (after (.prot3Wr 0x140 0xAB55#16) (fitted .T nbaJam)).map (·.p3Queue) =
      some #v[0x0055, 0x2400, 0x6800, 0xAC00, 0xF000] ∧
    (after (.prot3Wr 0x1FC0 0#16) (fitted .T nbaJam)).map (·.p3Queue) =
      some #v[0, 0xFE00, 0, 0, 0x0200] := by decide

/-- Rule R263: the reset pattern, then the first clock. -/
theorem test_prot4Wr :
    (afterAll [.prot4Wr 0x0100#16, .prot4Wr 0x0400#16, .prot4Wr 0xF2FF#16]
      { fitted .Y yUnit with p4Cursor := 1, p4Result := 0x9999#16 }).map (fun t => (t.p4Cursor, t.p4Result)) =
      some (0, 0x9999#16) ∧
    (afterAll [.prot4Wr 0x0800#16, .prot4Wr 0#16] (fitted .Y yUnit)).map
      (fun t => (t.p4Cursor, t.p4Result, t.cmosWe)) = some (1, 0x1111#16, true) := by decide

/-- V111. -/
theorem test_prot4_strikeForce :
    (afterAll [.prot4Wr 0x0500#16, .prot4Wr 0x0400#16, .prot4Rd] (fitted .Y strikeForce)).map (·.out) =
      some (some (.word 0x1230#16)) := by decide

/-- Rule R261. -/
theorem test_prot4Rd :
    (after .prot4Rd { fitted .Y yUnit with p4Result := 0x2222#16 }).map (·.out) =
      some (some (.word 0x2222#16)) := by decide

/-- V113, V115. -/
theorem test_prot5Wr :
    (afterAll [.prot5Wr 0x10#16, .prot5Wr 0x00#16] (fitted .Wolf serial)).map
      (fun t => (t.p5Latch, t.p5Cursor, t.serialStatus)) = some (0xD0#8, 1, false) ∧
    (after (.prot5Wr 0x05#16) (fitted .Wolf serial)).map (fun t => (t.p5Latch, t.p5Cursor)) =
      some (0x85#8, 0) := by decide

/-- V112. -/
theorem test_prot5Rd :
    (after .prot5Rd (fitted .Wolf serial)).map (fun t => (t.out, t.serialStatus)) =
      some (some (.word 0#16), true) := by decide

/-- V116. -/
theorem test_prot5Status :
    (afterAll [.prot5Wr 0x1F#16, .prot5Status] (fitted .Wolf serial)).map (·.out) =
      some (some (.word 1#16)) := by decide

/-- V65 and rule R300. -/
theorem test_reset :
    (after (.reset (board .Y []) (some [0x34, 0x12])) { timed with irq := true, timers := 3 }).map
      (fun t => (t.irq, t.timers, t.bankSelect, t.cmos)) =
      some (false, 0, true, [(0, 0x1234#16)]) := by decide


/-! ### Witnesses: concrete states and operands that meet the hypotheses of each statement -/

def reset0 : State := State.reset
def okNext (o : Host.Outcome State Fault Refusal) : Bool :=
  match o with
  | .next _ => true
  | _ => false

theorem witness_DecodeEncodeAgree :
    (Instr.blt06 plain).wf tableContext = true ∧ (Instr.dmaWr 13 0#16 full).wf tableContext = true ∧
    (Instr.prot4Wr 0#16).wf (context (some yUnit)) = true ∧
    (Instr.reset (board .T []) none).wf tableContext = true := by decide

/-- A plain register and `COMMAND`, a row of each list, an illegal mask, an access the fitted chip lacks. -/
theorem witness_HostAccessesDecode :
    tableContext.live = true ∧ registerAt tableContext.regMap 15 ≠ 14 ∧ registerAt tableContext.regMap 30 = 14 ∧
    (.cmosEnable, .W, .cmosEn 7#16) ∈ portOperations 0 7#16 ∧
    (.control, .W, .ctrlWr 7#16 full) ∈ maskedPortOperations 0 7#16 full ∧
    (4, .enable, .W, .prot4Wr 7#16) ∈ chipOperations 0 7#16 ∧ chipIs (context (some yUnit)) 4 = true ∧
    (2, .plain, .W, .prot2Wr 7#16 full) ∈ maskedChipOperations 7#16 full ∧
    chipIs (context (some .mk2)) 2 = true ∧ 0x0FF0#16 ∉ [0xFFFF#16, 0x00FF#16, 0xFF00#16, 0x0000#16] ∧
    (∀ chip, chipAccess chip .plain .R = true → chipIs (context (some .mk2)) chip = false) ∧
    decode tableContext (.event .completion) = .ok .dmaDone := by
  refine ⟨by decide, by decide, by decide, by decide, by decide, by decide, by decide, by decide, by decide,
    by decide, fun chip h => ?_, by decide⟩
  simp [chipAccess, chipOperations, maskedChipOperations] at h
  rcases h with h | h | h | h <;> subst h <;> decide

theorem witness_StepRunsDecodedOperation :
    reset0.pending = [] ∧
    decode reset0.context (.port .vram .R 3 0#16 0xFFFF#16) = .ok (.vramRd 3) ∧
    okNext (exec (.vramRd 3) reset0) = true ∧
    decode reset0.context (.port .control .R 0 0#16 0#16) = .error .noSuchAccess ∧
    decode (fitted .Y yUnit).context (.port (.protection .plain) .R 0 0#16 0xFFFF#16) = .ok .prot4Rd ∧
    decode reset0.context (.event .detach) = .ok .cmosSave ∧ okNext (exec .cmosSave reset0) = true ∧
    (destroyContext reset0).live = false ∧
    decode (destroyContext reset0).context (.event .completion) = .error .noContext := by
  decide

theorem witness_PlacedCommandWordRuns :
    reset0.live = true ∧
    commandReachable reset0.context = true ∧ okNext (exec (decodeCommand 0x8003#16) reset0) = true := by decide

theorem witness_OfferedOperationsComplete :
    offered reset0 (.vidEof true) = true ∧ offered (fitted .T mk1) .prot1Rd = true ∧
    offered reset0 (.reset (board .Y []) none) = true := by decide

theorem witness_RefusalsByName :
    offered reset0 .prot1Rd = false ∧ offered (fitted .T mk1) .prot2Rd = false ∧
    offered reset0 (.reset { board .Y [] with palEntries := 0 } none) = false := by decide

/-- A good board of family Y, two visible lines, chip 4 fitted, one call waiting. -/
def goodBoard : State :=
  { attached { board .Y [0x09#8] with visibleLast := 1, chip := some yUnit, fastDma := false } with
    vram := [(5, 0x0001#16), (517, 0x0002#16)]
    pending := [.event (.displayInterrupt 1 false)] }

theorem goodBoard_inv : goodBoard.Inv where
  params_wf := by decide
  vram_good := by decide
  shadow_good := by decide
  palram_good := by decide
  cmos_good := by decide
  bank_decoded := by decide
  autoerase_decoded := by decide
  page_decoded := by decide
  busy_pending := by decide
  destroyed_settled := by decide
  fast_settled := by decide
  shadow_absent := by decide
  next_line := by decide
  erase_next := by decide
  deferred_sorted := by decide
  deferred_passed := by decide
  p1_cursor := by decide
  p4_cursor := by decide
  p4_masked := fun v hv => by
    have hv : v ∈ [0#16, 0#16, 0#16] := hv
    simp only [List.mem_cons, List.not_mem_nil, or_false, or_self] at hv
    subst hv
    decide

theorem witness_StepKeepsInvariant : goodBoard.Inv ∧ okNext (step goodBoard) = true :=
  ⟨goodBoard_inv, by decide⟩

theorem witness_PlainRegisterWrite :
    registerAt reset0.params.regMap 0 ≠ commandReg ∧ registerAt reset0.params.regMap 13 ≠ commandReg ∧
    registerAt reset0.params.regMap 15 ≠ commandReg ∧ registerAt reset0.params.regMap 16 ≠ commandReg := by
  decide

theorem witness_RegistersPersist :
    (13 : Fin 16) ≠ commandReg ∧ ¬ isAttach (.dmaWr 12 1#16 full) ∧
    registerAt reset0.params.regMap 12 ≠ 13 ∧ okNext (exec (.dmaWr 12 1#16 full) reset0) = true ∧
    registerAt reset0.params.regMap 15 ≠ commandReg :=
  ⟨by decide, (by rintro ⟨_, _, h⟩; cases h), by decide, by decide, by decide⟩

theorem witness_CommandWriteRunsMergedWord :
    registerAt reset0.params.regMap 14 = commandReg ∧ registerAt reset0.params.regMap 30 = commandReg := by
  decide

theorem witness_StopDropsTheLine :
    registerAt timed.params.regMap 14 = commandReg ∧
    MergesInto (readReg timed commandReg) 0x7FFF#16 full 0x7FFF#16 ∧ (0x7FFF#16).getLsbD 15 = false ∧
    timed.params.fastDma = false ∧ 0 < { timed with timers := 1 }.timers :=
  ⟨by decide, fun b hb => by interval_cases b <;> decide, by decide, by decide, by decide⟩

theorem witness_CompletionEvent :
    timed.params.fastDma = false ∧ 0 < { timed with timers := 1 }.timers ∧ reset0.params.fastDma = true := by
  decide

theorem witness_CompletionNotInFlight :
    timed.params.fastDma = false ∧ timed.timers = 0 ∧ modeState.params.fastDma = true ∧
    (.blt03 plain, 0x03#5, ⟨.copy, .copy, false⟩) ∈ modeRows plain := by decide

theorem witness_GoInFastMode :
    (.blt00 plain, 0x00#5, ⟨.none, .none, false⟩) ∈ modeRows plain ∧
    (.blt1F plain, 0x1F#5, ⟨.color, .color, true⟩) ∈ modeRows plain ∧ modeState.params.fastDma = true := by
  decide

theorem witness_GoInTimerMode :
    (.blt1F plain, 0x1F#5, ⟨.color, .color, true⟩) ∈ modeRows plain ∧ timed.params.fastDma = false := by decide

theorem witness_FastModeIsTimerModeSettled :
    (.blt06 plain, 0x06#5, ⟨.color, .copy, false⟩) ∈ modeRows plain ∧ timed.params.fastDma = false := by decide

theorem witness_EveryGoCompletes :
    (.blt0F plain, 0x0F#5, ⟨.color, .color, false⟩) ∈ modeRows plain ∧ timed.params.fastDma = false ∧
    modeState.params.fastDma = true := by decide

theorem witness_CompletionStopRace :
    timed.params.fastDma = false ∧ 0 < { timed with timers := 1 }.timers := by decide

theorem witness_NoOtherInterruptSource :
    writesCommand reset0 (.dmaWr 13 0#16 full) = false ∧ Instr.dmaWr 13 0#16 full ≠ .dmaDone ∧
    okNext (exec (.dmaWr 13 0#16 full) reset0) = true ∧
    writesCommand reset0 (.reset (board .T []) none) = false ∧
    okNext (exec (.reset (board .T []) none) reset0) = true := by decide

theorem witness_DescriptorFields :
    reset0.params.xposMask = 0x3FF#16 ∧ reset0.params.yposMask = 0x1FF#16 := by decide

theorem witness_ZeroSizeDrawsNothing :
    (.blt03 plain, 0x03#5, ⟨.copy, .copy, false⟩) ∈ modeRows plain ∧
    { timed with dma := timed.dma.set 4 0xFC00 }.dma[4].toNat % 1024 = 0 ∧
    { timed with dma := timed.dma.set 5 0 }.dma[5].toNat % 1024 = 0 := by decide

theorem witness_NothingDrawnOutOfWindowOrByNone :
    (.blt10 plain, 0x10#5, ⟨.none, .none, true⟩) ∈ modeRows plain ∧
    { timed with dma := timed.dma.set 0 8 }.params.romWindowBits ≤
      (romFoldOf timed.params (sourceOffset { timed with dma := timed.dma.set 0 8 })).toNat := by decide

theorem witness_RomBitsAreLittleEndian :
    (board .T [0xE4#8]).rom[0]? = some 0xE4#8 ∧ (board .T [0xE4#8]).rom[1]? = none := by decide

/-- The right and the lower edge: columns 508 to 511, rows 510 and 511. -/
def edgeState : State :=
  drawState [1, 2, 3, 4] #v[0, 0, 508, 510, 2, 1, 0, 0, 0, 0x1FF, 0, 0x3FF, 0x80, 0x80, 0, 0]

/-- The left and the upper edge, both flips. -/
def flipState : State :=
  drawState [1, 2, 3, 4] #v[0, 0, 1, 1, 2, 2, 0, 0, 0, 0x1FF, 0, 0x3FF, 0, 0, 0, 0]

/-- V34: three columns from column 1 leftward wrap to column 1023, which is a cell of the next row. -/
def wrapState : State :=
  drawState [1, 2, 3] #v[0, 0, 1, 0, 3, 1, 0, 0, 0, 0x1FF, 0, 0x3FF, 0, 0, 0, 0]

/-- Its picture, pixel by pixel, which no flat rectangle covers. -/
theorem witness_DrawnRectangle_wraps :
    (buildDescriptor (bltWord 0x13#5 plain) ⟨.copy, .copy, true⟩ wrapState).skip = false ∧
    insideWindow wrapState = true ∧ wrapState.vram.wf = true ∧
    rectPixels wrapState.params (buildDescriptor (bltWord 0x13#5 plain) ⟨.copy, .copy, true⟩ wrapState) =
      [(1, 0#32), (0, 8#32), (1023, 16#32)] ∧
    pictureCell wrapState ⟨.copy, .copy, true⟩ 8 [(1, 0#32), (0, 8#32), (1023, 16#32)] 1023 0xFFFF#16 = 3#16 ∧
    pictureCell wrapState ⟨.copy, .copy, true⟩ 8 [(1, 0#32), (0, 8#32), (1023, 16#32)] 2 0xFFFF#16 = 0xFFFF#16 := by
  decide

theorem witness_DrawnRectangle :
    (buildDescriptor (bltWord 0x03#5 plain) ⟨.copy, .copy, false⟩ edgeState).skip = false ∧
    FlatRectangle edgeState.params (buildDescriptor (bltWord 0x03#5 plain) ⟨.copy, .copy, false⟩ edgeState) ∧
    insideWindow edgeState = true ∧ edgeState.vram.wf = true ∧
    FlatRectangle flipState.params
      (buildDescriptor (bltWord 0x13#5 { plain with yflip := true }) ⟨.copy, .copy, true⟩ flipState) :=
  ⟨by decide, ⟨by decide, by decide, by decide, by decide⟩, by decide, by decide,
    by decide, by decide, by decide, by decide⟩

/-- V50 with two columns a pixel: three source rows, of which the first and the third are drawn. -/
def skipState : State :=
  drawState [0x10, 0x01, 0x02, 0x00, 0x03, 0x04, 0x05, 0x02, 0x06]
    #v[0, 0, 0, 0, 3, 3, 0, 0, 0, 0x1FF, 0, 0x3FF, 0x80, 0x200, 0, 0]

def skipDescriptor : Descriptor :=
  buildDescriptor (bltWord 0x03#5 { plain with skipEn := true }) ⟨.copy, .copy, false⟩ skipState

def skipBase : Nat → BitAddr
  | 0 => skipDescriptor.offset
  | n + 1 => skipBase n + 8#32 + BitVec.ofNat 32
      ((skipDescriptor.width - skippedBefore skipState.params skipDescriptor (skipBase n) -
        skippedAfter skipState.params skipDescriptor (skipBase n)) * skipDescriptor.bpp)

/-- The second row drawn is the third source row; its columns 4 and 5 are drawn and no other. -/
theorem witness_DrawnSkipRows :
    skipDescriptor.skip = true ∧ FlatRectangle skipState.params skipDescriptor ∧
    insideWindow skipState = true ∧ skipState.vram.wf = true ∧ skipBase 0 = skipDescriptor.offset ∧
    (∀ n, skipBase (n + 1) = skipBase n + 8#32 + BitVec.ofNat 32
      ((skipDescriptor.width - skippedBefore skipState.params skipDescriptor (skipBase n) -
        skippedAfter skipState.params skipDescriptor (skipBase n)) * skipDescriptor.bpp)) ∧
    drawnRows skipDescriptor = 2 ∧
    skipBase (1 * skipDescriptor.ystep / 256) = 56#32 ∧
    ¬ drawsColumn skipState.params skipDescriptor 56#32 3 ∧
    drawsColumn skipState.params skipDescriptor 56#32 4 ∧
    drawsColumn skipState.params skipDescriptor 56#32 5 ∧
    ¬ drawsColumn skipState.params skipDescriptor 56#32 6 ∧
    skipPixels skipState.params skipDescriptor (fun r => skipBase (r * skipDescriptor.ystep / 256)) =
      [(0, 8#32), (1, 8#32), (2, 16#32), (3, 16#32), (516, 64#32), (517, 64#32)] :=
  ⟨by decide, ⟨by decide, by decide, by decide, by decide⟩, by decide, by decide, rfl, fun _ => rfl,
    by decide, by decide, by decide, by decide, by decide, by decide, by decide⟩

theorem witness_DrawStaysInClipRectangle :
    (.blt03 plain, 0x03#5, ⟨.copy, .copy, false⟩) ∈ modeRows plain ∧ modeState.vram.wf = true := by decide

theorem witness_ControlWrite :
    (attached (board .Y [])).params.family = .Y ∧ (attached (board .Z [])).params.family = .Z ∧
    (attached (board .T [])).params.family = .T ∧ (attached (board .Wolf [])).params.family = .Wolf := by
  decide

theorem witness_VideoMemoryWrite :
    (framed .T).vram.wf = true ∧ 2 ≤ (framed .T).params.vramCells ∧ (framed .T).params.family = .T ∧
    (framed .Y).vram.wf = true ∧ (framed .Y).params.family = .Y ∧
    2 ≤ { board .Y [] with vramCells := 2 }.vramCells := by decide

theorem witness_VideoMemoryRead :
    (framed .Wolf).params.family = .Wolf ∧ (framed .Z).params.family = .Z ∧
    reverseLookup (framed .Z).params ((framed .Z).vram.read (2 * 0x100 % (framed .Z).params.vramCells)) =
      0x11#16 := by decide

theorem witness_VideoMemoryRoundTrip :
    (framed .Z).params.wf = true ∧ (framed .Z).vram.wf = true ∧ 2 ≤ (framed .Z).params.vramCells := by decide

theorem witness_PaletteWrite : reset0.palram.wf = true := by decide

theorem witness_CompositorIdleOnTWolf :
    (framed .T).params.family = .T ∧ (framed .Wolf).params.family = .Wolf := by decide

/-- Lines before the first, at both ends and past the last visible one. -/
theorem witness_LineCopiesIntoShadow :
    (framed .Y).params.family = .Y ∧ (framed .Y).shadow.wf = true ∧
    ((0 : Nat) : Int) = max ((framed .Y).params.visibleFirst : Int) (min (-5) ((framed .Y).params.visibleLast : Int)) ∧
    ((0 : Nat) : Int) = max ((framed .Y).params.visibleFirst : Int) (min 0 ((framed .Y).params.visibleLast : Int)) ∧
    ((3 : Nat) : Int) = max ((framed .Y).params.visibleFirst : Int) (min 7 ((framed .Y).params.visibleLast : Int)) ∧
    (framed .Y).params.visibleFirst ≤ (framed .Y).params.visibleLast := by decide

theorem goodBoard_rowsFit : rowsFit goodBoard.params :=
  ⟨fun line _ h => by
    have h : line ≤ 1 := h
    interval_cases line <;> decide, by decide⟩

theorem witness_LineAutoErase :
    goodBoard.Inv ∧ goodBoard.params.family = .Y ∧ rowsFit goodBoard.params ∧
    ((1 : Nat) : Int) = max (goodBoard.params.visibleFirst : Int) (min 9 (goodBoard.params.visibleLast : Int)) ∧
    goodBoard.autoeraseEn = true :=
  ⟨goodBoard_inv, by decide, goodBoard_rowsFit, by decide, by decide⟩

theorem witness_EndOfFrameFlush :
    goodBoard.Inv ∧ goodBoard.params.family = .Y ∧ rowsFit goodBoard.params :=
  ⟨goodBoard_inv, by decide, goodBoard_rowsFit⟩

theorem witness_CoveredRowsKeepTheirPicture :
    goodBoard.Inv ∧ goodBoard.params.family = .Y ∧ goodBoard.nextLine ≤ 0 ∧ visibleLine goodBoard.params 0 ∧
    ((0 : Nat) : Int) ≤ 0 ∧ inRowOf goodBoard.params 0 5 ∧
    (∀ l', visibleLine goodBoard.params l' → l' ≠ 0 → ¬ inRowOf goodBoard.params l' 5) ∧
    (∀ i ∈ [Instr.blt03 plain], ¬ isAttach i ∧ ∀ flip, i ≠ .vidEof flip) ∧
    okNext (runOps ([.vidLine 0 true, .blt03 plain] ++ [.vidEof true]) goodBoard) = true := by
  refine ⟨goodBoard_inv, by decide, by decide, ⟨by decide, by decide⟩, by decide, ⟨5, by decide, by decide⟩,
    ?_, ?_, by decide +kernel⟩
  · rintro l ⟨_, hl⟩ hne ⟨c, hc, h⟩
    have hl : l ≤ 1 := hl
    have : l = 1 := by omega
    subst this
    have h : 5 = (1 * 512 + c) % 0x40000 := h
    simp only [vramStride] at hc
    omega
  · intro i hi
    simp only [List.mem_singleton] at hi
    subst hi
    exact ⟨(by rintro ⟨_, _, h⟩; cases h), by intro _ h; cases h⟩

theorem witness_ShiftRegisterTransfers :
    (framed .T).vram.wf = true ∧ 1024 ≤ (framed .T).params.vramCells := by decide

theorem witness_CmosRead :
    (framed .Y).params.family = .Y ∧ (framed .Z).params.family = .Z ∧ (framed .T).params.family = .T ∧
    (framed .Wolf).params.family = .Wolf := by decide

theorem witness_CmosWrite :
    reset0.cmos.wf = true ∧ reset0.params.family = .T ∧
    (attached (board .Wolf [])).params.family = .Wolf ∧ { attached (board .Wolf []) with cmosWe := true }.cmosWe = true ∧
    (attached (board .Z [])).params.family ≠ .T ∧ (attached (board .Z [])).cmosWe = false := by decide

theorem witness_CmosPermissionIsOneShot :
    (attached (board .Wolf [])).params.family ≠ .T ∧ goodBoard.params.family ≠ .T := by decide

theorem witness_CmosEnable :
    chipIs reset0.context 4 = false ∧ chipIs goodBoard.context 4 = true := by decide

theorem witness_CmosPagesAreSeparate :
    goodBoard.params.family = .Y ∧ goodBoard.cmos.wf = true ∧ 0xFFF < goodBoard.params.cmosPageWords := by decide

theorem witness_CmosSaveThenLoad :
    { reset0 with cmos := [(0xFFF, 7#16)] }.cmos.good (cmosWords reset0.params) ∧
    (banked true []).params = (banked false []).params ∧
    { reset0 with pending := [.event .detach] }.live = true := ⟨by decide, rfl, rfl⟩

theorem witness_Chip1CyclesItsTable :
    (fitted .T mk1).params.chip = some (.mk1 [0x13#6, 0x27#6, 0x0F#6] 9) ∧
    [0x13#6, 0x27#6, 0x0F#6][0]? = some 0x13#6 ∧
    [0x13#6, 0x27#6, 0x0F#6].length ≤ { fitted .T mk1 with p1Cursor := 3 }.p1Cursor ∧
    [0x13#6, 0x27#6, 0x0F#6][2]? = some ((0x1E00#16 >>> 9).setWidth 6) ∧
    (∀ j' < 2, [0x13#6, 0x27#6, 0x0F#6][j']? ≠ some ((0x1E00#16 >>> 9).setWidth 6)) ∧
    (0#16 >>> 9).setWidth 6 ∉ [0x13#6, 0x27#6, 0x0F#6] := by decide

theorem witness_Chip2Reads : (fitted .T .mk2).params.chip = some .mk2 := by decide

theorem witness_Chip2Write : (fitted .T .mk2).params.chip = some .mk2 := by decide

theorem witness_Chip3ReadsStick :
    (∃ table, (fitted .T nbaJam).params.chip = some (.nbaJam table 6 0x00FF#16)) ∧
    (fitted .T nbaJam).p3Cursor = 0 := ⟨⟨_, rfl⟩, by decide⟩

theorem witness_Chip3WriteFillsQueue :
    (∃ table, (fitted .T nbaJam).params.chip = some (.nbaJam table 6 0x00FF#16)) ∧
    (5 : Fin 128).val = 0x140 / 2 ^ 6 % 128 ∧ (127 : Fin 128).val = 0x1FC0 / 2 ^ 6 % 128 :=
  ⟨⟨_, rfl⟩, by decide, by decide⟩

/-- Both kinds of title; a write with no edge, an edge on the table's first and last entry. -/
theorem witness_Chip4Write :
    (fitted .Y strikeForce).params.chip = some (.yUnit #v[0, 0, 0] [] true 0x0123#16 []) ∧
    (fitted .Y yUnit).params.chip =
      some (.yUnit #v[0x0100, 0x0400, 0x0200] [0x1111#16, 0x2222#16] false 0#16 []) ∧
    (fitted .Y yUnit).p4Fifo[2].getLsbD 11 = false ∧
    { fitted .Y yUnit with p4Fifo := #v[0, 0, 0x0800] }.p4Fifo[2].getLsbD 11 = true ∧
    (0#16 &&& 0x0F00#16).getLsbD 11 = false ∧ [0x1111#16, 0x2222#16][0]? = some 0x1111#16 ∧
    [0x1111#16, 0x2222#16][1]? = some 0x2222#16 := by decide

theorem witness_Chip4ClocksThroughTable :
    (fitted .Y yUnit).params.chip =
      some (.yUnit #v[0x0100, 0x0400, 0x0200] [0x1111#16, 0x2222#16] false 0#16 []) ∧
    (0x0800#16).getLsbD 11 = true ∧ (0#16).getLsbD 11 = false ∧ (fitted .Y yUnit).p4Cursor = 0 ∧
    #v[0x0100#16, 0x0400#16, 0x0200#16] ≠ #v[0#16 &&& 0x0F00#16, 0x0800#16 &&& 0x0F00#16, 0#16 &&& 0x0F00#16] ∧
    #v[0x0100#16, 0x0400#16, 0x0200#16] ≠
      #v[0x0800#16 &&& 0x0F00#16, 0#16 &&& 0x0F00#16, 0x0800#16 &&& 0x0F00#16] ∧
    #v[0x0100#16, 0x0400#16, 0x0200#16] ≠
      #v[(fitted .Y yUnit).p4Fifo[1], (fitted .Y yUnit).p4Fifo[2], 0x0800#16 &&& 0x0F00#16] ∧
    #v[0x0100#16, 0x0400#16, 0x0200#16] ≠
      #v[(fitted .Y yUnit).p4Fifo[2], 0x0800#16 &&& 0x0F00#16, 0#16 &&& 0x0F00#16] ∧
    [0x1111#16, 0x2222#16][min 0 1]? = some 0x1111#16 ∧ [0x1111#16, 0x2222#16][min 9 1]? = some 0x2222#16 := by
  decide

theorem witness_Chip4Read :
    (fitted .Y yUnit).params.chip =
      some (.yUnit #v[0x0100, 0x0400, 0x0200] [0x1111#16, 0x2222#16] false 0#16 []) := by decide

theorem witness_Chip5Read : (fitted .Wolf serial).params.chip = some serial := by decide

/-- Clock high; clock low with the low nibble 1 and 15 (echo) and 0 (the next byte). -/
theorem witness_Chip5Write :
    (fitted .Wolf serial).params.chip = some serial ∧ (0x10#16).getLsbD 4 = true ∧
    (0x01#16).getLsbD 4 = false ∧ (0x01#16).toNat % 16 ≠ 0 ∧ (0x0F#16).toNat % 16 ≠ 0 ∧
    (0#16).getLsbD 4 = false ∧ (0#16).toNat % 16 = 0 := by decide

theorem witness_ProtectionIsIndependent :
    isProtection (.prot4Wr 0#16) = true ∧
    sameChip (fitted .Y yUnit) { fitted .Y yUnit with irq := true, vram := [(1, 1#16)] } ∧
    okNext (exec (.prot4Wr 0#16) (fitted .Y yUnit)) = true :=
  ⟨by decide, ⟨rfl, rfl, rfl, rfl, rfl, rfl, rfl, rfl, rfl, rfl, rfl⟩, by decide⟩

theorem witness_AttachResets : (board .Y []).wf = true ∧ (fitted .Wolf serial).params.wf = true := by decide

end Sys2Proof.Tests
end

section
/-! PROOFS. 00_scope.md: every operation is total (rule R5). The calls the agents have yet to make are kept by
each shared operation, a chip's operations complete where the chip is fitted, and the totality of `exec` is
assembled from both. -/

namespace Sys2Proof.Machine

/-! ### No operation of the board touches the calls waiting (rule R291; log 1) -/

@[simp] theorem scheduleCompletion_pending (n : Nat) (s : State) :
    (scheduleCompletion n s).pending = s.pending := by
  obtain ⟨_, h⟩ | ⟨_, h⟩ := scheduleCompletion_cases n s <;> rw [h]
  exact done_pending s

@[simp] theorem go_pending (c : Word) (v : Variant) (s : State) : (go c v s).pending = s.pending := by
  rw [go_eq, scheduleCompletion_pending]

@[simp] theorem commandWritten_pending (c : Word) (s : State) :
    (commandWritten c s).pending = s.pending := by
  unfold commandWritten
  split
  · rw [go_pending, latchCommand_pending]
  · exact latchCommand_pending s c

@[simp] theorem runBlit_pending (mode : BitVec 5) (v : Variant) (f : BltFields) (s : State) :
    (runBlit mode v f s).pending = s.pending := by
  rw [runBlit, setOut_pending, go_pending, latchCommand_pending]

@[simp] theorem composeTo_pending (e : Nat) (pageflip : Bool) (s : State) :
    (composeTo e pageflip s).pending = s.pending := rfl

@[simp] theorem endFrame_pending (pageflip : Bool) (s : State) :
    (endFrame pageflip s).pending = s.pending := rfl

@[simp] theorem enableWrite_pending (data : Word) (s : State) :
    (enableWrite data s).pending = s.pending := by
  rw [enableWrite_eq]

/-! ### Which chip is fitted (30_encoding.md rule R81, U19) -/

theorem chipIs_one_iff (s : State) :
    chipIs s.context 1 = true ↔ ∃ table wrShift, s.params.chip = some (.mk1 table wrShift) := by
  rcases h : s.params.chip with _ | (_ | _ | _ | _ | _) <;> simp [chipIs, State.context, h]

theorem chipIs_two_iff (s : State) : chipIs s.context 2 = true ↔ s.params.chip = some .mk2 := by
  rcases h : s.params.chip with _ | (_ | _ | _ | _ | _) <;> simp [chipIs, State.context, h]

theorem chipIs_three_iff (s : State) :
    chipIs s.context 3 = true ↔
      ∃ table idxShift q0Mask, s.params.chip = some (.nbaJam table idxShift q0Mask) := by
  rcases h : s.params.chip with _ | (_ | _ | _ | _ | _) <;> simp [chipIs, State.context, h]

theorem chipIs_four_iff (s : State) :
    chipIs s.context 4 = true ↔ ∃ resetSeq dataSeq strikeForce code ex,
      s.params.chip = some (.yUnit resetSeq dataSeq strikeForce code ex) := by
  rcases h : s.params.chip with _ | (_ | _ | _ | _ | _) <;> simp [chipIs, State.context, h]

theorem chipIs_five_iff (s : State) :
    chipIs s.context 5 = true ↔ ∃ buffer orMask, s.params.chip = some (.serial buffer orMask) := by
  rcases h : s.params.chip with _ | (_ | _ | _ | _ | _) <;> simp [chipIs, State.context, h]

/-! ### A chip's operations, where the chip is fitted (45_protection.md) -/

section Chip1
variable {s : State} {table : List (BitVec 6)} {wrShift : Nat}

theorem exec_prot1Rd (hc : s.params.chip = some (.mk1 table wrShift)) :
    exec .prot1Rd s = .next (answer { s with p1Cursor := mk1Index table s.p1Cursor + 1 }
      ((table.getD (mk1Index table s.p1Cursor) 0#6).setWidth 16 <<< 9)) := by
  simp only [exec, execProt1Rd, hc]

theorem exec_prot1Wr (hc : s.params.chip = some (.mk1 table wrShift)) (data : Word) (mask : ByteMask) :
    exec (.prot1Wr data mask) s = .next (setOut { s with
      p1Cursor := if mask.hi then mk1Search table wrShift data else s.p1Cursor } none) := by
  simp only [exec, execProt1Wr, hc]

end Chip1

section Chip2
variable {s : State}

theorem exec_prot2Rd (hc : s.params.chip = some .mk2) : exec .prot2Rd s = .next (answer s s.p2Latch) := by
  simp only [exec, execProt2Rd, hc]

theorem exec_prot2RdSh (hc : s.params.chip = some .mk2) :
    exec .prot2RdSh s = .next (answer s (s.p2Latch >>> 1)) := by
  simp only [exec, execProt2RdSh, hc]

theorem exec_prot2RdC (hc : s.params.chip = some .mk2) : exec .prot2RdC s = .next (answer s 0x0002#16) := by
  simp only [exec, execProt2RdC, hc]

theorem exec_prot2Wr (hc : s.params.chip = some .mk2) (data : Word) (mask : ByteMask) :
    exec (.prot2Wr data mask) s =
      .next (setOut { s with p2Latch := merge16 s.p2Latch data mask } none) := by
  simp only [exec, execProt2Wr, hc]

end Chip2

section Chip3
variable {s : State} {table : Vector (BitVec 32) 128} {idxShift : Nat} {q0Mask : Word}

theorem exec_prot3Rd (hc : s.params.chip = some (.nbaJam table idxShift q0Mask)) :
    exec .prot3Rd s =
      .next (answer { s with p3Cursor := queueStep s.p3Cursor } s.p3Queue[s.p3Cursor]) := by
  simp only [exec, execProt3Rd, hc]

theorem exec_prot3Wr (hc : s.params.chip = some (.nbaJam table idxShift q0Mask)) (off : Nat) (data : Word) :
    exec (.prot3Wr off data) s = .next (setOut { s with
      p3Queue := queueFill table[Fin.ofNat 128 (off >>> idxShift)] (data &&& q0Mask)
      p3Cursor := 0 } none) := by
  simp only [exec, execProt3Wr, hc]

end Chip3

section Chip4
variable {s : State} {resetSeq : Vector Word 3} {dataSeq : List Word} {strikeForce : Bool} {code : Word}
  {ex : List (Word × Word)}

theorem exec_prot4Wr (hc : s.params.chip = some (.yUnit resetSeq dataSeq strikeForce code ex)) (data : Word) :
    exec (.prot4Wr data) s = .next (setOut (enableWrite data s) none) := by
  simp only [exec, execProt4Wr, hc]

theorem exec_prot4Rd (hc : s.params.chip = some (.yUnit resetSeq dataSeq strikeForce code ex)) :
    exec .prot4Rd s = .next (answer s s.p4Result) := by
  simp only [exec, execProt4Rd, hc]

end Chip4

section Chip5
variable {s : State} {buffer : Vector Byte 16} {orMask : Byte}

theorem exec_prot5Wr (hc : s.params.chip = some (.serial buffer orMask)) (data : Word) :
    exec (.prot5Wr data) s = .next (setOut
      (if serialClock data then { s with serialStatus := serialClock data }
      else if serialEcho data then
        { s with serialStatus := serialClock data, p5Latch := orMask ||| lowByte data }
      else { s with
        serialStatus := serialClock data
        p5Latch := buffer[s.p5Cursor]
        p5Cursor := s.p5Cursor + 1 }) none) := by
  simp only [exec, execProt5Wr, hc]

theorem exec_prot5Rd (hc : s.params.chip = some (.serial buffer orMask)) :
    exec .prot5Rd s = .next (answer { s with serialStatus := true } (s.p5Latch.setWidth 16)) := by
  simp only [exec, execProt5Rd, hc]

theorem exec_prot5Status (hc : s.params.chip = some (.serial buffer orMask)) :
    exec .prot5Status s = .next (answer s ((BitVec.ofBool s.serialStatus).setWidth 16)) := by
  simp only [exec, execProt5Status, hc]

end Chip5

/-! ### Totality (rules R5, R281) -/

/-- The outcome is a next state in which the calls waiting are those of `s`. -/
def CompletesFrom (s : State) (o : Host.Outcome State Fault Refusal) : Prop :=
  ∃ t, o = .next t ∧ t.pending = s.pending

theorem completesFrom_next {s t : State} (h : t.pending = s.pending) : CompletesFrom s (.next t) :=
  ⟨t, rfl, h⟩

/-- A protection operation completes where its chip is fitted. -/
theorem exec_completes_of_isProtection {i : Instr} {s : State} (hp : isProtection i = true)
    (h : offered s i = true) : CompletesFrom s (exec i s) := by
  cases i with
  | prot1Rd =>
    obtain ⟨_, _, hc⟩ := (chipIs_one_iff s).mp h
    exact ⟨_, exec_prot1Rd hc, rfl⟩
  | prot1Wr data mask =>
    obtain ⟨_, _, hc⟩ := (chipIs_one_iff s).mp h
    exact ⟨_, exec_prot1Wr hc data mask, rfl⟩
  | prot2Rd => exact ⟨_, exec_prot2Rd ((chipIs_two_iff s).mp h), rfl⟩
  | prot2RdSh => exact ⟨_, exec_prot2RdSh ((chipIs_two_iff s).mp h), rfl⟩
  | prot2RdC => exact ⟨_, exec_prot2RdC ((chipIs_two_iff s).mp h), rfl⟩
  | prot2Wr data mask => exact ⟨_, exec_prot2Wr ((chipIs_two_iff s).mp h) data mask, rfl⟩
  | prot3Rd =>
    obtain ⟨_, _, _, hc⟩ := (chipIs_three_iff s).mp h
    exact ⟨_, exec_prot3Rd hc, rfl⟩
  | prot3Wr off data =>
    obtain ⟨_, _, _, hc⟩ := (chipIs_three_iff s).mp h
    exact ⟨_, exec_prot3Wr hc off data, rfl⟩
  | prot4Wr data =>
    obtain ⟨_, _, _, _, _, hc⟩ := (chipIs_four_iff s).mp h
    exact ⟨_, exec_prot4Wr hc data, enableWrite_pending data s⟩
  | prot4Rd =>
    obtain ⟨_, _, _, _, _, hc⟩ := (chipIs_four_iff s).mp h
    exact ⟨_, exec_prot4Rd hc, rfl⟩
  | prot5Wr data =>
    obtain ⟨_, _, hc⟩ := (chipIs_five_iff s).mp h
    exact ⟨_, exec_prot5Wr hc data, by simp [apply_ite State.pending]⟩
  | prot5Rd =>
    obtain ⟨_, _, hc⟩ := (chipIs_five_iff s).mp h
    exact ⟨_, exec_prot5Rd hc, rfl⟩
  | prot5Status =>
    obtain ⟨_, _, hc⟩ := (chipIs_five_iff s).mp h
    exact ⟨_, exec_prot5Status hc, rfl⟩
  | _ => exact absurd hp Bool.false_ne_true

/-- Every other operation completes, an attach where its parameters are such as the spec allows (log 7). -/
theorem exec_completes_of_not_isProtection {i : Instr} {s : State} (hp : isProtection i = false)
    (h : offered s i = true) : CompletesFrom s (exec i s) := by
  cases i with
  | dmaWr off data mask => exact completesFrom_next (by simp [apply_ite State.pending])
  | dmaStop r => exact completesFrom_next (latchCommand_pending s (stopWord r))
  | blt00 f | blt01 f | blt02 f | blt03 f | blt04 f | blt05 f | blt06 f | blt07 f
  | blt08 f | blt09 f | blt0A f | blt0B f | blt0C f | blt0D f | blt0E f | blt0F f
  | blt10 f | blt11 f | blt12 f | blt13 f | blt14 f | blt15 f | blt16 f | blt17 f
  | blt18 f | blt19 f | blt1A f | blt1B f | blt1C f | blt1D f | blt1E f | blt1F f =>
    exact completesFrom_next (runBlit_pending _ _ f s)
  | dmaDone => exact completesFrom_next (by simp [apply_ite State.pending])
  | vidLine line pageflip => exact completesFrom_next (by simp [apply_ite State.pending])
  | vidEof pageflip => exact completesFrom_next (by simp [apply_ite State.pending])
  | cmosEn data => exact completesFrom_next (enableWrite_pending data s)
  | reset p blob => exact ⟨_, if_pos h, rfl⟩
  | dmaRd _ | ctrlWr _ _ | vramWr _ _ _ | vramRd _ | palWr _ _ | srToHost _ | srFromHost _ _
  | cmosRd _ | cmosWr _ _ _ | cmosLoad _ | cmosSave => exact completesFrom_next rfl
  | prot1Rd | prot1Wr _ _ | prot2Rd | prot2RdSh | prot2RdC | prot2Wr _ _ | prot3Rd | prot3Wr _ _
  | prot4Wr _ | prot4Rd | prot5Wr _ | prot5Rd | prot5Status => exact absurd hp.symm Bool.false_ne_true

/-- Settles O8: it holds. A protection operation is offered where its chip is fitted, and there it runs; an
attach is offered with good parameters; every other operation has one unconditional outcome. -/
theorem offeredOperationsComplete : Obligations.OfferedOperationsComplete := by
  unfold Obligations.OfferedOperationsComplete
  intro i s h
  cases hp : isProtection i with
  | true => exact exec_completes_of_isProtection hp h
  | false => exact exec_completes_of_not_isProtection hp h

end Sys2Proof.Machine
end

section
/-! PROOFS. 10_state.md: the DMA registers as state (rules R11, R112). What every protection operation leaves
alone is said once; then each shared operation keeps the registers other than `COMMAND`. -/

namespace Sys2Proof.Machine

/-! ### What a protection operation can change (45_protection.md, head; decision D43) -/

/-- A protection operation changes the chips' registers, the CMOS permission and the answer alone. -/
theorem exec_eq_of_isProtection {i : Instr} {s t : State} (hp : isProtection i = true)
    (h : exec i s = .next t) :
    t = { s with
      cmosWe := t.cmosWe
      p1Cursor := t.p1Cursor
      p2Latch := t.p2Latch
      p3Queue := t.p3Queue
      p3Cursor := t.p3Cursor
      p4Fifo := t.p4Fifo
      p4Cursor := t.p4Cursor
      p4Result := t.p4Result
      p5Cursor := t.p5Cursor
      p5Latch := t.p5Latch
      serialStatus := t.serialStatus
      out := t.out } := by
  cases i with
  | prot1Rd | prot1Wr _ _ | prot2Rd | prot2RdSh | prot2RdC | prot2Wr _ _ | prot3Rd | prot3Wr _ _
  | prot4Rd | prot5Rd | prot5Status =>
    simp only [exec, execProt1Rd, execProt1Wr, execProt2Rd, execProt2RdSh, execProt2RdC, execProt2Wr,
      execProt3Rd, execProt3Wr, execProt4Rd, execProt5Rd, execProt5Status] at h
    split at h
    · obtain rfl := Host.Outcome.next.inj h
      rfl
    · cases h
  | prot4Wr data =>
    simp only [exec, execProt4Wr] at h
    split at h
    · obtain rfl := Host.Outcome.next.inj h
      rw [enableWrite_eq]
      rfl
    · cases h
  | prot5Wr data =>
    simp only [exec, execProt5Wr] at h
    split at h
    · obtain rfl := Host.Outcome.next.inj h
      split_ifs <;> rfl
    · cases h
  | _ => exact absurd hp Bool.false_ne_true

/-! ### The registers other than `COMMAND` through the shared operations (rule R11) -/

theorem readReg_congr {s t : State} (h : t.dma = s.dma) (r : Fin 16) : readReg t r = readReg s r := by
  rw [readReg, readReg, h]

@[simp] theorem enableWrite_dma (data : Word) (s : State) : (enableWrite data s).dma = s.dma := by
  rw [enableWrite_eq]

@[simp] theorem composeTo_dma (e : Nat) (pageflip : Bool) (s : State) :
    (composeTo e pageflip s).dma = s.dma := rfl

@[simp] theorem endFrame_dma (pageflip : Bool) (s : State) : (endFrame pageflip s).dma = s.dma := rfl

section OtherThanCommand
variable {r : Fin 16} (hr : r ≠ commandReg)
include hr

theorem readReg_scheduleCompletion_ne (n : Nat) (s : State) :
    readReg (scheduleCompletion n s) r = readReg s r := by
  obtain ⟨_, h⟩ | ⟨_, h⟩ := scheduleCompletion_cases n s <;> rw [h]
  · exact readReg_done_ne s hr
  · rfl

theorem readReg_go_ne (c : Word) (v : Variant) (s : State) : readReg (go c v s) r = readReg s r := by
  rw [go_eq, readReg_scheduleCompletion_ne hr]
  rfl

theorem readReg_commandWritten_ne (c : Word) (s : State) :
    readReg (commandWritten c s) r = readReg s r := by
  unfold commandWritten
  split
  · rw [readReg_go_ne hr, readReg_latchCommand_ne c s hr]
  · exact readReg_latchCommand_ne c s hr

theorem readReg_runBlit_ne (mode : BitVec 5) (v : Variant) (f : BltFields) (s : State) :
    readReg (runBlit mode v f s) r = readReg s r := by
  rw [runBlit, readReg_setOut, readReg_go_ne hr, readReg_latchCommand_ne _ s hr]

end OtherThanCommand

/-! ### `DMA.WR` and `DMA.RD` (rules R110 to R112) -/

theorem exec_dmaWr_command {s : State} {off : Nat} (h : registerAt s.params.regMap off = commandReg)
    (data : Word) (mask : ByteMask) :
    exec (.dmaWr off data mask) s =
      .next (setOut (commandWritten (merge16 (readReg s commandReg) data mask) s) none) := by
  simp only [exec, execDmaWr, h, if_true]

theorem exec_dmaWr_plain {s : State} {off : Nat} (h : registerAt s.params.regMap off ≠ commandReg)
    (data : Word) (mask : ByteMask) :
    exec (.dmaWr off data mask) s =
      .next (setOut (writeReg s (registerAt s.params.regMap off)
        (merge16 (readReg s (registerAt s.params.regMap off)) data mask)) none) := by
  simp only [exec, execDmaWr, h, if_false]

theorem exec_dmaRd (off : Nat) (s : State) :
    exec (.dmaRd off) s = .next (answer s (readReg s (registerAt s.params.regMap off))) := rfl

/-- A `DMA.WR` keeps every register but `COMMAND` and the one its offset names. -/
theorem readReg_of_exec_dmaWr {off : Nat} {data : Word} {mask : ByteMask} {s t : State} {r : Fin 16}
    (hr : r ≠ commandReg) (hoff : registerAt s.params.regMap off ≠ r)
    (h : exec (.dmaWr off data mask) s = .next t) : readReg t r = readReg s r := by
  by_cases hc : registerAt s.params.regMap off = commandReg
  · rw [exec_dmaWr_command hc] at h
    obtain rfl := Host.Outcome.next.inj h
    rw [readReg_setOut, readReg_commandWritten_ne hr]
  · rw [exec_dmaWr_plain hc] at h
    obtain rfl := Host.Outcome.next.inj h
    rw [readReg_setOut, readReg_writeReg_ne s _ hoff.symm]

/-- Rule R11 over every operation but an attach. -/
theorem readReg_of_exec {i : Instr} {s t : State} {r : Fin 16} (hr : r ≠ commandReg) (ha : ¬ isAttach i)
    (hw : ∀ off data mask, i = .dmaWr off data mask → registerAt s.params.regMap off ≠ r)
    (h : exec i s = .next t) : readReg t r = readReg s r := by
  cases i with
  | dmaWr off data mask => exact readReg_of_exec_dmaWr hr (hw off data mask rfl) h
  | dmaStop c =>
    obtain rfl := Host.Outcome.next.inj h
    exact readReg_latchCommand_ne (stopWord c) s hr
  | blt00 f | blt01 f | blt02 f | blt03 f | blt04 f | blt05 f | blt06 f | blt07 f
  | blt08 f | blt09 f | blt0A f | blt0B f | blt0C f | blt0D f | blt0E f | blt0F f
  | blt10 f | blt11 f | blt12 f | blt13 f | blt14 f | blt15 f | blt16 f | blt17 f
  | blt18 f | blt19 f | blt1A f | blt1B f | blt1C f | blt1D f | blt1E f | blt1F f =>
    obtain rfl := Host.Outcome.next.inj h
    exact readReg_runBlit_ne hr _ _ f s
  | dmaDone =>
    obtain rfl := Host.Outcome.next.inj h
    rw [readReg_setOut]
    split
    · exact readReg_done_ne s hr
    · rfl
  | vidLine _ _ | vidEof _ =>
    obtain rfl := Host.Outcome.next.inj h
    exact readReg_congr (by simp [apply_ite State.dma]) r
  | cmosEn data =>
    obtain rfl := Host.Outcome.next.inj h
    exact readReg_congr (enableWrite_dma data s) r
  | dmaRd _ | ctrlWr _ _ | vramWr _ _ _ | vramRd _ | palWr _ _ | srToHost _ | srFromHost _ _
  | cmosRd _ | cmosWr _ _ _ | cmosLoad _ | cmosSave =>
    obtain rfl := Host.Outcome.next.inj h
    rfl
  | reset p blob => exact absurd ⟨p, blob, rfl⟩ ha
  | prot1Rd | prot1Wr _ _ | prot2Rd | prot2RdSh | prot2RdC | prot2Wr _ _ | prot3Rd | prot3Wr _ _
  | prot4Wr _ | prot4Rd | prot5Wr _ | prot5Rd | prot5Status =>
    rw [exec_eq_of_isProtection rfl h]
    rfl

/-- A whole word written to a register other than `COMMAND` is what the next read at that offset answers. -/
theorem runOps_dmaWr_dmaRd {s : State} {off : Nat} (h : registerAt s.params.regMap off ≠ commandReg)
    (data : Word) :
    ∃ t, runOps [.dmaWr off data ⟨true, true⟩, .dmaRd off] s = .next t ∧ t.out = some (.word data) := by
  refine ⟨answer (setOut (writeReg s (registerAt s.params.regMap off) data) none) data, ?_, rfl⟩
  simp only [runOps, exec_dmaWr_plain h, merge16_full, exec_dmaRd, setOut_params, writeReg_params,
    readReg_setOut, readReg_writeReg_same]

/-- Settles O13: it holds. Every operation but an attach and a `DMA.WR` that names the register keeps it, and
a read after a whole-word write finds the word written. -/
theorem registersPersist : Obligations.RegistersPersist :=
  ⟨fun _ _ _ _ hr ha hw h => readReg_of_exec hr ha hw h, fun s off => exec_dmaRd off s,
    fun _ _ data h => runOps_dmaWr_dmaRd h data⟩

end Sys2Proof.Machine
end

section
/-! PROOFS. 10_state.md rule R15: the transfer descriptor, field by field, in arithmetic over the registers and
the command word; and what its policies emit (42_blitter.md rule R146). -/

namespace Sys2Proof.Machine

/-! ### Fields of a word -/

theorem toNat_and_0x1FF (w : Word) : (w &&& 0x1FF#16).toNat = w.toNat % 512 :=
  Nat.and_two_pow_sub_one_eq_mod w.toNat 9

theorem toNat_and_0x3FF (w : Word) : (w &&& 0x3FF#16).toNat = w.toNat % 1024 :=
  Nat.and_two_pow_sub_one_eq_mod w.toNat 10

/-- A field of a word, `len` bits from bit `start` on. -/
theorem toNat_extractLsb' (w : Word) (start len : Nat) :
    (w.extractLsb' start len).toNat = w.toNat / 2 ^ start % 2 ^ len := by
  rw [BitVec.extractLsb'_toNat, Nat.shiftRight_eq_div_pow]

/-- The source bit address: `OFFSETHI` over `OFFSETLO`, which share no bit (rules R85, R124). -/
theorem sourceOffset_toNat (s : State) :
    (sourceOffset s).toNat = 65536 * (readReg s offsetHi).toNat + (readReg s offsetLo).toNat := by
  have hlo : (readReg s offsetLo).toNat < 2 ^ 16 := (readReg s offsetLo).isLt
  have hhi : (readReg s offsetHi).toNat < 2 ^ 16 := (readReg s offsetHi).isLt
  have hshift : ((readReg s offsetHi).setWidth 32 <<< 16).toNat = 2 ^ 16 * (readReg s offsetHi).toNat := by
    simp only [BitVec.toNat_shiftLeft, BitVec.toNat_setWidth, Nat.shiftLeft_eq]
    omega
  rw [sourceOffset, BitVec.toNat_or, hshift, BitVec.toNat_setWidth_of_le (by decide),
    ← Nat.two_pow_add_eq_or_of_lt hlo]

/-- Bits for each pixel, from bits 14:12 of the command word (rules R15, R84). -/
theorem bppOf_bltFields (c : Word) :
    bppOf (bltFields c) = if c.toNat / 4096 % 8 = 0 then 8 else c.toNat / 4096 % 8 := by
  have hb : (bltFields c).bpp.toNat = c.toNat / 4096 % 8 := toNat_extractLsb' c 12 3
  simp only [bppOf, ← hb, BitVec.toNat_eq, BitVec.toNat_ofNat, Nat.zero_mod]

/-- A scale register as a step (rule R15). -/
theorem stepOf_eq (v : Word) : stepOf v = if v.toNat = 0 then 256 else v.toNat := by
  simp only [stepOf, BitVec.toNat_eq, BitVec.toNat_ofNat, Nat.zero_mod]

/-! ### What a policy emits (rule R146) -/

section Policies
variable {d : Descriptor} {px : Word}

theorem emitted_of_none (h : pixelPolicy d px = .none) : emitted d px = none := by
  rw [emitted, h]

theorem emitted_of_copy (h : pixelPolicy d px = .copy) : emitted d px = some (px ||| d.pal) := by
  rw [emitted, h]

theorem emitted_of_color (h : pixelPolicy d px = .color) : emitted d px = some d.color := by
  rw [emitted, h]

end Policies

/-- A descriptor's policies are those of the command's variant (rules R15, R86). -/
theorem pixelPolicy_buildDescriptor (c : Word) (v : Variant) (s : State) (px : Word) :
    pixelPolicy (buildDescriptor c v s) px = if px = 0#16 then v.zero else v.nonzero := rfl

/-- Settles O23: it holds. Each field is a mask, a shift or a default of the registers and the command word;
what is emitted goes by the policy of the pixel's class. -/
theorem descriptorFields : Obligations.DescriptorFields := by
  intro c v s
  refine ⟨sourceOffset_toNat s, rfl, toNat_and_0x3FF s.dma[4], toNat_and_0x3FF s.dma[5], rfl, rfl, rfl, rfl,
    toNat_extractLsb' c 8 2, toNat_extractLsb' c 10 2, rfl, rfl, rfl, rfl, rfl, rfl, bppOf_bltFields c,
    toNat_and_0x1FF s.dma[8], toNat_and_0x1FF s.dma[9], toNat_and_0x3FF s.dma[10],
    toNat_and_0x3FF s.dma[11], stepOf_eq s.dma[12], stepOf_eq s.dma[13], fun hx => ?_, fun hy => ?_,
    fun px => ?_⟩
  · rw [← toNat_and_0x3FF, ← hx]
    rfl
  · rw [← toNat_and_0x1FF, ← hy]
    rfl
  · have hp := pixelPolicy_buildDescriptor c v s px
    cases hc : (if px = 0#16 then v.zero else v.nonzero) with
    | none => exact emitted_of_none (hp.trans hc)
    | copy => exact emitted_of_copy (hp.trans hc)
    | color => exact emitted_of_color (hp.trans hc)

end Sys2Proof.Machine
end

section
/-! PROOFS. 20_memory.md rules R56, R63: one step, said once. What a step does with the next call, and what it
can have done where it answers a state. -/

namespace Sys2Proof.Machine

section NextCall
variable {s : State} {call : Call} {rest : List Call}

theorem step_of_pending_nil (h : s.pending = []) : step s = .next s := by
  rw [step, fetch, h]
  rfl

theorem step_of_decode_error (h : s.pending = call :: rest) {reason : DecodeReject}
    (hd : decode s.context call = .error reason) : step s = .refused (.undecodable reason) := by
  rw [step, fetch, h, List.head?_cons]
  simp only [hd]

theorem step_of_decode_ok (h : s.pending = call :: rest) {i : Instr} (hd : decode s.context call = .ok i) :
    step s = finish call (exec i s) := by
  rw [step, fetch, h, List.head?_cons]
  simp only [hd]

end NextCall

/-- Everything a step that answers a state can have done: nothing, where no call waits, or the operation of
the next call and that call's conclusion. -/
theorem step_cases {s t : State} (h : step s = .next t) :
    (s.pending = [] ∧ t = s) ∨
    ∃ call rest i u, s.pending = call :: rest ∧ decode s.context call = .ok i ∧ exec i s = .next u ∧
      t = retire (conclude call u) := by
  rcases hp : s.pending with _ | ⟨call, rest⟩
  · rw [step_of_pending_nil hp] at h
    exact .inl ⟨rfl, (Host.Outcome.next.inj h).symm⟩
  · right
    rcases hd : decode s.context call with reason | i
    · rw [step_of_decode_error hp hd] at h
      cases h
    · rw [step_of_decode_ok hp hd] at h
      rcases he : exec i s with u | r | r <;> rw [he] at h <;> cases h
      exact ⟨call, rest, i, u, rfl, hd, he, rfl⟩

/-- Where there is no board context, what decodes is an attach (rules R300, R302). -/
theorem isAttach_of_decode_destroyed {c : Context} {call : Call} {i : Instr} (hl : c.live = false)
    (h : decode c call = .ok i) : isAttach i := by
  by_cases hc : ∀ p blob, call ≠ .event (.attach p blob)
  · rw [decode_of_destroyed hl hc] at h
    cases h
  · push Not at hc
    obtain ⟨p, blob, rfl⟩ := hc
    simp only [decode, Call.isAttach, Bool.or_true, if_true, decodeCall, decodeEvent] at h
    split at h <;> cases h
    exact ⟨p, blob, rfl⟩

/-- No operation touches the calls waiting (rule R291; log 1). -/
theorem pending_of_exec {i : Instr} {s t : State} (h : exec i s = .next t) : t.pending = s.pending := by
  cases hp : isProtection i with
  | true => rw [exec_eq_of_isProtection hp h]
  | false =>
    have ho : offered s i = true := by
      cases i with
      | reset p blob =>
        simp only [exec, execReset] at h
        split at h
        · assumption
        · cases h
      | prot1Rd | prot1Wr _ _ | prot2Rd | prot2RdSh | prot2RdC | prot2Wr _ _ | prot3Rd | prot3Wr _ _
      | prot4Wr _ | prot4Rd | prot5Wr _ | prot5Rd | prot5Status => exact absurd hp.symm Bool.false_ne_true
      | _ => rfl
    obtain ⟨u, hu, hpend⟩ := exec_completes_of_not_isProtection hp ho
    rw [h] at hu
    rwa [Host.Outcome.next.inj hu]

/-- Settles O6: it holds. A step is `finish` of the operation its next call decodes to; no operation touches
the list, so what is left of it is `rest`. -/
theorem stepRunsDecodedOperation : Obligations.StepRunsDecodedOperation := by
  intro s
  refine ⟨step_of_pending_nil, fun call rest hp => ⟨fun _ hd => step_of_decode_error hp hd,
    fun hl hc => step_of_decode_error hp (decode_of_destroyed hl hc), fun i hd => ⟨?_, ?_, ?_⟩⟩⟩
  · intro t he hc
    have ht : t.pending = call :: rest := (pending_of_exec he).trans hp
    rw [step_of_decode_ok hp hd, he, finish, conclude_of_ne hc, retire, ht]
    rfl
  · rintro t he rfl
    have ht : t.pending = .event .detach :: rest := (pending_of_exec he).trans hp
    rw [step_of_decode_ok hp hd, he, finish, conclude_detach, retire, destroyContext_pending, ht]
    rfl
  · intro r he
    rw [step_of_decode_ok hp hd, he]
    rfl

end Sys2Proof.Machine
end

section
/-! PROOFS. The invariant of good board contexts (20_memory.md rule R59, 10_state.md rules R18 to R29). First
one lemma for each part of the state an operation can change, which asks for that part's own clauses alone;
then each operation is a use of those lemmas. -/

namespace Sys2Proof.Machine

/-! ### Good stores (rules R50, R59) -/

theorem Memory.good_write {m : Memory} {n k : Nat} (h : m.good n) (hk : k < n) (v : Word) :
    (m.write k v).good n :=
  ⟨Memory.wf_write h.1 k v, Memory.below_write h.2 hk v⟩

theorem Memory.good_writeWrapped {m : Memory} {n : Nat} (hn : 0 < n) (h : m.good n) (k : Nat)
    (ws : List Word) : (Memory.writeWrapped n m k ws).good n :=
  ⟨Memory.writeWrapped_wf n k ws h.1, Memory.writeWrapped_below hn k ws h.2⟩

theorem pokeCell_good {n k : Nat} (s : State) (enabled : Bool) (hk : k < n) (palByte b : Byte)
    {vram : Memory} (h : vram.good n) : (pokeCell s enabled k palByte b vram).good n := by
  unfold pokeCell
  split
  · exact Memory.good_write h hk _
  · exact h

theorem eraseLines_good {p : Params} (hp : 0 < p.vramCells) (lines : List Nat) {vram : Memory}
    (h : vram.good p.vramCells) : (lines.foldl (eraseLine p) vram).good p.vramCells :=
  Memory.foldl_good _ (fun _ line hw hb => eraseLine_good hp line hw hb) lines h.1 h.2

theorem partialUpdate_shadow_good {s : State} (hp : 0 < s.params.vramCells) (e : Nat)
    (h : s.shadow.good s.params.vramCells) : (partialUpdate e s).shadow.good s.params.vramCells :=
  Memory.foldl_good _ (fun _ _ hw hb => copyRow_good hp s.vram _ _ hw hb) _ h.1 h.2

@[simp] theorem autoErase_params (e : Nat) (pageflip : Bool) (s : State) :
    (autoErase e pageflip s).params = s.params := rfl

/-! ### The busy bit (rule R13) -/

@[simp] theorem busy_done (s : State) : busy (done s) = false := by
  rw [busy, readReg_done, BitVec.getLsbD_and]
  simp

@[simp] theorem busy_latchCommand (c : Word) (s : State) : busy (latchCommand c s) = c.getLsbD 15 := by
  rw [busy, readReg_latchCommand]

theorem stopWord_getLsbD_fifteen (r : BitVec 15) : (stopWord r).getLsbD 15 = false := by
  simp [stopWord]

/-! ### The state right after an attach (rules R40 to R44) -/

theorem busy_attached (p : Params) : busy (attached p) = false := by
  simp [busy, readReg, attached]

theorem attached_bankSelect (p : Params) : (attached p).bankSelect = bankOf p (attached p).ctrl := by
  cases hf : p.family <;> simp [attached, bankOf, isYZ, hf]

/-! ### The chips' registers (45_protection.md) -/

/-- Chip 1's search ends inside its table (rule R241). -/
theorem mk1Search_le (table : List (BitVec 6)) (wrShift : Nat) (data : Word) :
    mk1Search table wrShift data ≤ table.length := by
  unfold mk1Search
  rcases hf : table.findIdx? fun v => decide (v = data.extractLsb' wrShift 6) with _ | j
  · exact Nat.zero_le _
  · exact (List.findIdx?_eq_some_iff_getElem.mp hf).1.le

/-- The entry chip 1 reads is in its table, so the cursor after it is at most the length (rule R240). -/
theorem mk1Index_lt {table : List (BitVec 6)} (h : 0 < table.length) (cursor : Nat) :
    mk1Index table cursor < table.length := by
  unfold mk1Index
  split <;> omega

/-- Chip 4's cursor stays in its table (rules R259, R260). -/
theorem enableWrite_p4Cursor_le (data : Word) {s : State} (h : s.p4Cursor ≤ p4Bound s.params) :
    (enableWrite data s).p4Cursor ≤ p4Bound s.params := by
  rcases hc : s.params.chip with _ | (_ | _ | _ | ⟨resetSeq, dataSeq, strikeForce, code, ex⟩ | _)
  case some.yUnit =>
    rw [p4Bound, hc] at h ⊢
    simp only [enableWrite, hc, chip4Write]
    split
    · exact h
    · simp only [protocolWrite, resetCursor]
      split
      · exact Nat.min_le_right _ _
      · dsimp only
        split
        · exact Nat.zero_le _
        · exact h
  all_goals simpa only [enableWrite, hc] using h

/-- Chip 4's FIFO holds masked values alone (rules R257, R258). -/
theorem enableWrite_p4Fifo_masked (data : Word) {s : State}
    (h : ∀ v ∈ s.p4Fifo.toList, v &&& 0x0F00#16 = v) :
    ∀ v ∈ (enableWrite data s).p4Fifo.toList, v &&& 0x0F00#16 = v := by
  have hshift : ∀ v ∈ (fifoShift s.p4Fifo (data &&& 0x0F00#16)).toList, v &&& 0x0F00#16 = v := by
    intro v hv
    simp only [fifoShift, Vector.toList_mk, List.mem_cons, List.not_mem_nil, or_false] at hv
    obtain rfl | rfl | rfl := hv
    · exact h _ (by simp)
    · exact h _ (by simp)
    · rw [BitVec.and_assoc, BitVec.and_self]
  rcases hc : s.params.chip with _ | (_ | _ | _ | ⟨resetSeq, dataSeq, strikeForce, code, ex⟩ | _)
  case some.yUnit =>
    simp only [enableWrite, hc, chip4Write]
    split
    · exact hshift
    · simp only [protocolWrite]
      split <;> exact hshift
  all_goals simpa only [enableWrite, hc] using h

/-! ### One lemma for each part of the state -/

namespace State.Inv
variable {s : State} (h : s.Inv)
include h

theorem vramCells_pos : 0 < s.params.vramCells := by
  obtain ⟨hcells, -⟩ := (Params.wf_iff _).mp h.params_wf
  exact hcells

theorem cmosPageWords_pos : 0 < s.params.cmosPageWords := by
  obtain ⟨-, hwords, -⟩ := (Params.wf_iff _).mp h.params_wf
  exact hwords

theorem palEntries_pos : 0 < s.params.palEntries := by
  obtain ⟨-, -, hentries, -⟩ := (Params.wf_iff _).mp h.params_wf
  exact hentries

theorem visible_ordered : s.params.visibleFirst ≤ s.params.visibleLast := by
  obtain ⟨-, -, -, hvisible, -⟩ := (Params.wf_iff _).mp h.params_wf
  exact hvisible

/-- Chip 1's table is not empty (rule R240). -/
theorem mk1_length_pos {table : List (BitVec 6)} {wrShift : Nat}
    (hc : s.params.chip = some (.mk1 table wrShift)) : 0 < table.length := by
  obtain ⟨-, -, -, -, -, hchip⟩ := (Params.wf_iff _).mp h.params_wf
  simpa [Chip.wf, List.length_pos_iff] using (hchip _ hc).1

/-- Whatever the invariant does not speak of may change. -/
theorem of_unconstrained {t : State}
    (ht : t = { s with
      irq := t.irq
      cmosWe := t.cmosWe
      p2Latch := t.p2Latch
      p3Queue := t.p3Queue
      p3Cursor := t.p3Cursor
      p4Result := t.p4Result
      p5Cursor := t.p5Cursor
      p5Latch := t.p5Latch
      serialStatus := t.serialStatus
      pending := t.pending
      out := t.out }) : t.Inv := by
  rw [ht]
  exact { h with }

/-- The registers, the line and the completions in flight. -/
theorem of_command {t : State} (ht : t = { s with dma := t.dma, irq := t.irq, timers := t.timers })
    (hbusy : s.live = true → busy t = true → 0 < t.timers) (hdestroyed : s.live = false → t.timers = 0)
    (hfast : s.params.fastDma = true → t.timers = 0) : t.Inv := by
  rw [ht] at hbusy ⊢
  exact { h with busy_pending := hbusy, destroyed_settled := hdestroyed, fast_settled := hfast }

theorem with_vram {m : Memory} (hm : m.good s.params.vramCells) : ({ s with vram := m } : State).Inv :=
  { h with vram_good := hm }

theorem with_palram {m : Memory} (hm : m.good s.params.palEntries) : ({ s with palram := m } : State).Inv :=
  { h with palram_good := hm }

theorem with_cmos {m : Memory} (hm : m.good (cmosWords s.params)) : ({ s with cmos := m } : State).Inv :=
  { h with cmos_good := hm }

theorem with_p1Cursor {cursor : Nat} (hc : cursor ≤ p1Bound s.params) :
    ({ s with p1Cursor := cursor } : State).Inv :=
  { h with p1_cursor := hc }

/-! ### The shared operations -/

protected theorem destroyContext : (destroyContext s).Inv :=
  { h with
    busy_pending := fun hl => absurd hl Bool.false_ne_true
    destroyed_settled := fun _ => rfl
    fast_settled := fun _ => rfl }

protected theorem conclude (call : Call) : (conclude call s).Inv := by
  unfold Machine.conclude
  split
  · exact h.destroyContext
  · exact h

/-- The control write decodes its fields from the word it stores (rule R200). -/
protected theorem writeControl (c : Word) : (writeControl s c).Inv :=
  { h with
    bank_decoded := rfl
    autoerase_decoded := rfl
    page_decoded := by
      have hp := h.page_decoded
      simp only [Machine.writeControl]
      split <;> simp_all }

protected theorem enableWrite (data : Word) : (enableWrite data s).Inv := by
  have hcursor := enableWrite_p4Cursor_le data h.p4_cursor
  have hfifo := enableWrite_p4Fifo_masked data h.p4_masked
  rw [enableWrite_eq]
  exact { h with p4_cursor := hcursor, p4_masked := hfifo }

/-- The completion event (rule R130). -/
protected theorem done : (done s).Inv := by
  refine h.of_command rfl (fun _ hb => ?_) (fun hl => ?_) (fun hf => ?_)
  · simp at hb
  · simp [h.destroyed_settled hl]
  · simp [h.fast_settled hf]

/-- A write to a register other than `COMMAND` (rule R111). -/
protected theorem writeReg {r : Fin 16} (hr : r ≠ commandReg) (v : Word) : (writeReg s r v).Inv := by
  refine h.of_command rfl (fun hl hb => ?_) h.destroyed_settled h.fast_settled
  rw [busy, readReg_writeReg_ne s v hr.symm] at hb
  exact h.busy_pending hl hb

/-- A stop command (rule R126). -/
theorem latchCommand_stop {c : Word} (hc : c.getLsbD 15 = false) : (latchCommand c s).Inv := by
  refine h.of_command rfl (fun _ hb => ?_) h.destroyed_settled h.fast_settled
  rw [busy_latchCommand, hc] at hb
  cases hb

/-- A go command's completion: in fast mode the command is settled at once, in timer mode it has its
completion in flight (rules R128, R129). -/
theorem scheduleCompletion_latchCommand (hl : s.live = true) (c : Word) (n : Nat) :
    (scheduleCompletion n (latchCommand c s)).Inv := by
  have hlive : s.live ≠ false := ne_false_of_eq_true hl
  obtain ⟨_, e⟩ | ⟨hf, e⟩ := scheduleCompletion_cases n (latchCommand c s) <;> rw [e]
  · refine h.of_command rfl (fun _ hb => ?_) (absurd · hlive) (fun hf => ?_)
    · simp at hb
    · simp [h.fast_settled hf]
  · exact h.of_command rfl (fun _ _ => Nat.succ_pos _) (absurd · hlive)
      (absurd · (ne_true_of_eq_false hf))

/-- A go command draws into video memory and schedules its completion (rule R121). -/
theorem go_latchCommand (hl : s.live = true) (c : Word) (v : Variant) : (go c v (latchCommand c s)).Inv := by
  have hgood : (if insideWindow (latchCommand c s) then
      draw s.params (buildDescriptor c v (latchCommand c s)) s.vram else s.vram).good s.params.vramCells := by
    split
    · exact draw_good h.vramCells_pos _ h.vram_good.1 h.vram_good.2
    · exact h.vram_good
  rw [go_eq]
  exact (h.with_vram hgood).scheduleCompletion_latchCommand hl c _

protected theorem commandWritten (hl : s.live = true) (c : Word) : (commandWritten c s).Inv := by
  unfold Machine.commandWritten
  split
  · exact h.go_latchCommand hl c _
  · next hc => exact h.latchCommand_stop (Bool.eq_false_iff.mpr hc)

/-! ### The compositor (rules R210 to R218), on the boards that have one -/

protected theorem autoErase {e : Nat} (he : visibleLine s.params e) (pageflip : Bool) :
    (autoErase e pageflip s).Inv := by
  obtain ⟨hsorted, hmem⟩ := autoErase_deferred e pageflip h.deferred_sorted
  obtain ⟨hfirst, hlast⟩ := he
  obtain ⟨hlow, hhigh⟩ := h.erase_next
  have hnext : (autoErase e pageflip s).eraseNext = max s.eraseNext (e + 1) := by
    simp only [Machine.autoErase]
    split <;> omega
  exact { h with
    vram_good := by
      simp only [Machine.autoErase]
      split
      · exact eraseLines_good h.vramCells_pos _ h.vram_good
      · exact h.vram_good
    erase_next := by
      rw [hnext, autoErase_params]
      exact ⟨by omega, by omega⟩
    deferred_sorted := hsorted
    deferred_passed := fun line hl => by
      rw [hnext, autoErase_params]
      obtain hold | ⟨-, -, hge, hle⟩ := (hmem line).mp hl
      · have hp := h.deferred_passed line hold
        omega
      · omega }

section Compositor
variable (hyz : isYZ s.params = true)
include hyz

protected theorem partialUpdate {e : Nat} (he : visibleLine s.params e) : (partialUpdate e s).Inv :=
  { h with
    shadow_good := partialUpdate_shadow_good h.vramCells_pos e h.shadow_good
    shadow_absent := fun hn => absurd (hyz.symm.trans hn) (by decide)
    next_line := by
      have hn := h.next_line
      obtain ⟨h1, h2⟩ := he
      simp only [Machine.partialUpdate, lineCounter] at hn ⊢
      split <;> omega }

protected theorem composeTo {e : Nat} (he : visibleLine s.params e) (pageflip : Bool) :
    (composeTo e pageflip s).Inv :=
  (h.partialUpdate hyz he).autoErase he pageflip

protected theorem endFrame (pageflip : Bool) : (endFrame pageflip s).Inv :=
  have ht := h.composeTo hyz ⟨h.visible_ordered, Nat.le_refl _⟩ pageflip
  have hstart : lineCounter s.params s.params.visibleFirst :=
    ⟨Nat.le_refl _, Nat.le_succ_of_le h.visible_ordered⟩
  { ht with
    vram_good := eraseLines_good h.vramCells_pos _ ht.vram_good
    next_line := hstart
    erase_next := hstart
    deferred_sorted := List.Pairwise.nil
    deferred_passed := fun _ hl => absurd hl List.not_mem_nil }

end Compositor

/-! ### The operations -/

omit h in
/-- The state of an attach is good, whatever the save file and the calls waiting (rules R40 to R44, R300). -/
protected theorem attached {p : Params} (hp : p.wf = true) (blob : Blob) (calls : List Call) :
    ({ attached p with cmos := loadCmos p blob, pending := calls } : State).Inv := by
  obtain ⟨-, hpage, -, hvis, -, -⟩ := (Params.wf_iff p).mp hp
  have hstart : lineCounter p p.visibleFirst := ⟨Nat.le_refl _, Nat.le_succ_of_le hvis⟩
  exact {
    params_wf := hp
    vram_good := ⟨rfl, rfl⟩
    shadow_good := ⟨rfl, rfl⟩
    palram_good := ⟨rfl, rfl⟩
    cmos_good := loadCmos_good hpage blob
    bank_decoded := attached_bankSelect p
    autoerase_decoded := by simp [Machine.attached, autoeraseOf]
    page_decoded := by simp [Machine.attached, pageOf]
    busy_pending := fun _ hb => absurd hb (ne_true_of_eq_false (busy_attached p))
    destroyed_settled := fun _ => rfl
    fast_settled := fun _ => rfl
    shadow_absent := fun _ => rfl
    next_line := hstart
    erase_next := hstart
    deferred_sorted := List.Pairwise.nil
    deferred_passed := fun _ hl => absurd hl List.not_mem_nil
    p1_cursor := Nat.zero_le _
    p4_cursor := Nat.zero_le _
    p4_masked := by simp [Machine.attached] }

omit h in
theorem of_exec_reset {p : Params} {blob : Blob} {t : State} (he : exec (.reset p blob) s = .next t) :
    t.Inv := by
  simp only [exec, execReset] at he
  split at he <;> cases he
  next hp => exact State.Inv.attached hp blob s.pending

/-- A protection operation keeps its chip's cursor in its table (rules R23, R26). -/
theorem exec_of_isProtection {i : Instr} {t : State} (hp : isProtection i = true) (he : exec i s = .next t) :
    t.Inv := by
  cases i with
  | prot1Rd =>
    simp only [exec, execProt1Rd] at he
    split at he <;> cases he
    next table _ hc =>
    have hlen : 0 < table.length := h.mk1_length_pos hc
    have hcursor : mk1Index table s.p1Cursor + 1 ≤ p1Bound s.params := by
      rw [p1Bound, hc]
      exact mk1Index_lt hlen s.p1Cursor
    exact (h.with_p1Cursor hcursor).of_unconstrained rfl
  | prot1Wr data mask =>
    simp only [exec, execProt1Wr] at he
    split at he <;> cases he
    next table wrShift hc =>
    refine State.Inv.of_unconstrained (h.with_p1Cursor ?_) rfl
    split
    · rw [p1Bound, hc]
      exact mk1Search_le table wrShift data
    · exact h.p1_cursor
  | prot2Rd | prot2RdSh | prot2RdC | prot2Wr _ _ | prot3Rd | prot3Wr _ _ | prot4Rd | prot5Rd
  | prot5Status =>
    simp only [exec, execProt2Rd, execProt2RdSh, execProt2RdC, execProt2Wr, execProt3Rd, execProt3Wr,
      execProt4Rd, execProt5Rd, execProt5Status] at he
    split at he <;> cases he
    exact h.of_unconstrained rfl
  | prot4Wr data =>
    simp only [exec, execProt4Wr] at he
    split at he <;> cases he
    exact (h.enableWrite data).of_unconstrained rfl
  | prot5Wr data =>
    simp only [exec, execProt5Wr] at he
    split at he <;> cases he
    split_ifs <;> exact h.of_unconstrained rfl
  | _ => exact absurd hp Bool.false_ne_true

/-- Every operation on a live board keeps the invariant. -/
theorem exec_of_live {i : Instr} {t : State} (hl : s.live = true) (he : exec i s = .next t) : t.Inv := by
  cases i with
  | dmaWr off data mask =>
    by_cases hc : registerAt s.params.regMap off = commandReg
    · rw [exec_dmaWr_command hc] at he
      cases he
      exact (h.commandWritten hl _).of_unconstrained rfl
    · rw [exec_dmaWr_plain hc] at he
      cases he
      exact (h.writeReg hc _).of_unconstrained rfl
  | dmaStop r =>
    cases he
    exact (h.latchCommand_stop (stopWord_getLsbD_fifteen r)).of_unconstrained rfl
  | blt00 f | blt01 f | blt02 f | blt03 f | blt04 f | blt05 f | blt06 f | blt07 f
  | blt08 f | blt09 f | blt0A f | blt0B f | blt0C f | blt0D f | blt0E f | blt0F f
  | blt10 f | blt11 f | blt12 f | blt13 f | blt14 f | blt15 f | blt16 f | blt17 f
  | blt18 f | blt19 f | blt1A f | blt1B f | blt1C f | blt1D f | blt1E f | blt1F f =>
    cases he
    exact (h.go_latchCommand hl _ _).of_unconstrained rfl
  | dmaDone =>
    cases he
    refine State.Inv.of_unconstrained (s := if completionEnabled s then done s else s) ?_ rfl
    split
    · exact h.done
    · exact h
  | ctrlWr data mask =>
    cases he
    exact (h.writeControl _).of_unconstrained rfl
  | vramWr off data mask =>
    cases he
    exact (h.with_vram (pokeCell_good s _ (Nat.mod_lt _ h.vramCells_pos) _ _
      (pokeCell_good s _ (Nat.mod_lt _ h.vramCells_pos) _ _ h.vram_good))).of_unconstrained rfl
  | palWr off data =>
    cases he
    exact (h.with_palram (Memory.good_write h.palram_good (Nat.mod_lt _ h.palEntries_pos)
      data)).of_unconstrained rfl
  | vidLine line pageflip =>
    cases he
    refine State.Inv.of_unconstrained
      (s := if isYZ s.params then composeTo (clampLine s.params line) pageflip s else s) ?_ rfl
    split
    · next hyz => exact h.composeTo hyz (clampLine_visible h.visible_ordered line) pageflip
    · exact h
  | vidEof pageflip =>
    cases he
    refine State.Inv.of_unconstrained (s := if isYZ s.params then endFrame pageflip s else s) ?_ rfl
    split
    · next hyz => exact h.endFrame hyz pageflip
    · exact h
  | srFromHost addr buffer =>
    cases he
    exact (h.with_vram (Memory.good_writeWrapped h.vramCells_pos h.vram_good _ _)).of_unconstrained rfl
  | cmosWr off data mask =>
    cases he
    refine State.Inv.of_unconstrained (h.with_cmos ?_) rfl
    split
    · exact Memory.good_write h.cmos_good (Nat.mod_lt _ (cmosWords_pos h.cmosPageWords_pos)) _
    · exact h.cmos_good
  | cmosEn data =>
    cases he
    exact (h.enableWrite data).of_unconstrained rfl
  | cmosLoad blob =>
    cases he
    exact (h.with_cmos (loadCmos_good h.cmosPageWords_pos blob)).of_unconstrained rfl
  | dmaRd _ | vramRd _ | srToHost _ | cmosRd _ | cmosSave =>
    cases he
    exact h.of_unconstrained rfl
  | reset p blob => exact of_exec_reset he
  | prot1Rd | prot1Wr _ _ | prot2Rd | prot2RdSh | prot2RdC | prot2Wr _ _ | prot3Rd | prot3Wr _ _
  | prot4Wr _ | prot4Rd | prot5Wr _ | prot5Rd | prot5Status => exact h.exec_of_isProtection rfl he

end State.Inv

/-- Settles O10: it holds. A live board runs its operation, each of which keeps the invariant; a destroyed one
can only be attached, which is good from any state; a detach settles what was in flight. -/
theorem stepKeepsInvariant : Obligations.StepKeepsInvariant := by
  intro s t h hstep
  obtain ⟨-, rfl⟩ | ⟨call, rest, i, u, -, hd, he, rfl⟩ := step_cases hstep
  · exact h
  · have hu : u.Inv := by
      cases hl : s.live with
      | true => exact h.exec_of_live hl he
      | false =>
        obtain ⟨p, blob, rfl⟩ := isAttach_of_decode_destroyed (c := s.context) hl hd
        exact State.Inv.of_exec_reset he
    exact (hu.conclude call).of_unconstrained rfl

end Sys2Proof.Machine
end

section
/-! PROOFS. 20_memory.md rule R53: the bits of a field of the graphics ROM, read off the pair of bytes it
lies in. -/

namespace Sys2Proof.Machine

/-- The bits of a word made of two bytes (rule R52). -/
theorem pairBytes_getLsbD (hi lo : Byte) (j : Nat) :
    (pairBytes hi lo).getLsbD j = if j < 8 then lo.getLsbD j else hi.getLsbD (j - 8) := by
  by_cases hj : j < 8
  · have h16 : j < 16 := by omega
    simp [pairBytes, hj, h16]
  · by_cases h16 : j < 16
    · simp [pairBytes, hj, h16, BitVec.getLsbD_of_ge lo j (by omega)]
    · rw [BitVec.getLsbD_of_ge _ j (by omega), if_neg hj, BitVec.getLsbD_of_ge _ (j - 8) (by omega)]

/-- The mask that keeps the low `n` bits of a word. -/
theorem getLsbD_ofNat_two_pow_sub_one (n j : Nat) :
    (BitVec.ofNat 16 (2 ^ n - 1)).getLsbD j = (decide (j < 16) && decide (j < n)) := by
  rw [BitVec.getLsbD_ofNat, Nat.testBit_two_pow_sub_one]

/-- Bit `j` of a field lies in the byte its bit address is in, or in the one after it; the latter only where
the field straddles the boundary, and then that byte is looked at (rule R53). -/
theorem romBits_getLsbD (p : Params) (o : BitAddr) {n : Nat} (hn : n ≤ 8) (j : Nat) :
    (romBits p o n).getLsbD j =
      (decide (j < n) && (romByte p ((o.toNat + j) / 8)).getLsbD ((o.toNat + j) % 8)) := by
  simp only [romBits, BitVec.getLsbD_and, BitVec.getLsbD_ushiftRight, pairBytes_getLsbD,
    getLsbD_ofNat_two_pow_sub_one]
  by_cases hj : j < n
  · have h16 : j < 16 := by omega
    simp only [hj, h16, decide_true, Bool.and_true, Bool.true_and]
    by_cases hlow : o.toNat % 8 + j < 8
    · have hbyte : (o.toNat + j) / 8 = o.toNat / 8 := by omega
      have hbit : (o.toNat + j) % 8 = o.toNat % 8 + j := by omega
      rw [if_pos hlow, hbyte, hbit]
    · have hbyte : (o.toNat + j) / 8 = o.toNat / 8 + 1 := by omega
      have hbit : (o.toNat + j) % 8 = o.toNat % 8 + j - 8 := by omega
      rw [if_neg hlow, if_neg (by omega), hbyte, hbit]
  · simp [hj]

/-- Settles O27: it holds, by where the field's bits lie in the pair of bytes; the byte at an index is read
off the image where it has one. -/
theorem romBitsAreLittleEndian : Obligations.RomBitsAreLittleEndian := by
  intro p o n j _ hn
  refine ⟨romBits_getLsbD p o hn j, fun i b hb => ?_, fun i hi => ?_⟩
  · rw [romByte, hb]
  · rw [romByte, hi]

end Sys2Proof.Machine
end

section
/-! PROOFS. 20_memory.md rule R59, 42_blitter.md rules R143, R144: where a go command can draw. The loops of
rule R141 keep their column and row inside the masks, and a pixel is drawn inside the clip rectangle alone. -/

namespace Sys2Proof.Machine

/-- Cell `k` is that of a row and a column which their masks leave alone and the clip rectangle holds
(rules R59, R143, R144). -/
def drawable (p : Params) (d : Descriptor) (k : Nat) : Prop :=
  ∃ row col : Word, k = cellIndex p row.toNat col.toNat ∧
    row &&& p.yposMask = row ∧ col &&& p.xposMask = col ∧ insideY d row = true ∧ insideX d col = true

theorem stepColumn_masked (p : Params) (d : Descriptor) (sx : Word) (n : Nat) :
    stepColumn p d sx n &&& p.xposMask = stepColumn p d sx n := by
  rw [stepColumn, BitVec.and_assoc, BitVec.and_self]

theorem stepRow_masked (p : Params) (d : Descriptor) (sy : Word) :
    stepRow p d sy &&& p.yposMask = stepRow p d sy := by
  rw [stepRow, BitVec.and_assoc, BitVec.and_self]

/-- A row begins at a column its mask leaves alone, in skip mode too (rule R142). -/
theorem rowStart_sx_masked {p : Params} {d : Descriptor} (hx : d.xpos &&& p.xposMask = d.xpos)
    (offset : BitAddr) : (rowStart p d offset).sx &&& p.xposMask = (rowStart p d offset).sx := by
  unfold rowStart
  split
  · exact stepColumn_masked p d d.xpos _
  · exact hx

theorem plotPixel_read_ne {p : Params} {sy sx : Word} {k : Nat} (hk : k ≠ cellIndex p sy.toNat sx.toNat)
    (d : Descriptor) (o : BitAddr) (vram : Memory) : (plotPixel p d sy sx o vram).read k = vram.read k := by
  unfold plotPixel
  split
  · rfl
  · exact Memory.read_write_ne vram _ hk

section Undrawable
variable {p : Params} {d : Descriptor} {k : Nat} (hk : ¬ drawable p d k)
include hk

theorem pixelLoop_read_of_not_drawable {sy : Word} (hsy : sy &&& p.yposMask = sy)
    (hy : insideY d sy = true) (W fuel : Nat) {sx : Word} (hsx : sx &&& p.xposMask = sx) (ix : Nat)
    (o : BitAddr) (vram : Memory) :
    (pixelLoop p d sy W fuel sx ix o vram).read k = vram.read k := by
  induction fuel generalizing sx ix o vram with
  | zero => rfl
  | succ fuel ih =>
    unfold pixelLoop
    split
    · rw [ih (stepColumn_masked p d sx 1)]
      split
      · next hx => exact plotPixel_read_ne (fun e => hk ⟨sy, sx, e, hsy, hsx, hy, hx⟩) d o vram
      · rfl
    · rfl

theorem drawRow_read_of_not_drawable {sy : Word} (hsy : sy &&& p.yposMask = sy)
    (hx : d.xpos &&& p.xposMask = d.xpos) (offset : BitAddr) (vram : Memory) :
    (drawRow p d sy offset vram).read k = vram.read k := by
  unfold drawRow
  dsimp only
  split
  · next hvis =>
    have hy : insideY d sy = true := (Bool.and_eq_true_iff.mp hvis).1
    exact pixelLoop_read_of_not_drawable hk hsy hy _ _ (rowStart_sx_masked hx offset) _ _ vram
  · rfl

theorem rowLoop_read_of_not_drawable (hx : d.xpos &&& p.xposMask = d.xpos) (fuel : Nat) {sy : Word}
    (hsy : sy &&& p.yposMask = sy) (iy : Nat) (offset : BitAddr) (vram : Memory) :
    (rowLoop p d fuel sy iy offset vram).read k = vram.read k := by
  induction fuel generalizing sy iy offset vram with
  | zero => rfl
  | succ fuel ih =>
    unfold rowLoop
    split
    · rw [ih (stepRow_masked p d sy), drawRow_read_of_not_drawable hk hsy hx]
    · rfl

end Undrawable

/-- A transfer changes drawable cells alone. -/
theorem drawable_of_draw_read_ne {p : Params} {d : Descriptor} (hx : d.xpos &&& p.xposMask = d.xpos)
    (hy : d.ypos &&& p.yposMask = d.ypos) {vram : Memory} {k : Nat}
    (h : (draw p d vram).read k ≠ vram.read k) : drawable p d k := by
  by_contra hk
  exact h (rowLoop_read_of_not_drawable hk hx _ hy 0 d.offset vram)

/-! ### The 32 modes -/

/-- A row of the matrix of rule R87 is what `exec` does with its operation. -/
theorem exec_of_mem_modeRows {f : BltFields} {i : Instr} {m : BitVec 5} {v : Variant}
    (h : (i, m, v) ∈ modeRows f) (s : State) : exec i s = .next (runBlit m v f s) := by
  have hrows : (modeRows f).map (fun x => exec x.1 s) =
      (modeRows f).map fun x => .next (runBlit x.2.1 x.2.2 f s) := rfl
  exact List.map_inj_left.mp hrows (i, m, v) h

/-- Video memory after a go command, in either completion mode (rules R121, R128, R129). -/
theorem runBlit_vram (m : BitVec 5) (v : Variant) (f : BltFields) (s : State) :
    (runBlit m v f s).vram =
      if insideWindow s then draw s.params (buildDescriptor (bltWord m f) v s) s.vram else s.vram := by
  cases hf : s.params.fastDma
  · rw [runBlit_timer m v f hf]
  · rw [runBlit_fast m v f hf]

/-- The clip rectangle of a command, from its registers (rules R15, R143, R144). -/
theorem insideY_buildDescriptor (c : Word) (v : Variant) (s : State) (row : Word) :
    insideY (buildDescriptor c v s) row = true ↔
      s.dma[8].toNat % 512 ≤ row.toNat ∧ row.toNat ≤ s.dma[9].toNat % 512 := by
  simp only [insideY, Bool.and_eq_true, decide_eq_true_eq, ← toNat_and_0x1FF]
  rfl

theorem insideX_buildDescriptor (c : Word) (v : Variant) (s : State) (col : Word) :
    insideX (buildDescriptor c v s) col = true ↔
      s.dma[10].toNat % 1024 ≤ col.toNat ∧ col.toNat ≤ s.dma[11].toNat % 1024 := by
  simp only [insideX, Bool.and_eq_true, decide_eq_true_eq, ← toNat_and_0x3FF]
  rfl

/-- A command starts at a row and a column its masks leave alone (rule R15). -/
theorem buildDescriptor_xpos_masked (c : Word) (v : Variant) (s : State) :
    (buildDescriptor c v s).xpos &&& s.params.xposMask = (buildDescriptor c v s).xpos := by
  rw [buildDescriptor, BitVec.and_assoc, BitVec.and_self]

theorem buildDescriptor_ypos_masked (c : Word) (v : Variant) (s : State) :
    (buildDescriptor c v s).ypos &&& s.params.yposMask = (buildDescriptor c v s).ypos := by
  rw [buildDescriptor, BitVec.and_assoc, BitVec.and_self]

/-- Settles O30: it holds. Video memory changes by the draw alone, and a draw changes drawable cells alone. -/
theorem drawStaysInClipRectangle : Obligations.DrawStaysInClipRectangle := by
  intro f i m v s hmode _
  refine ⟨runBlit m v f s, exec_of_mem_modeRows hmode s, fun k hk => ?_⟩
  rw [runBlit_vram] at hk
  split at hk
  · obtain ⟨row, col, hcell, hrow, hcol, hy, hx⟩ := drawable_of_draw_read_ne
      (buildDescriptor_xpos_masked _ v s) (buildDescriptor_ypos_masked _ v s) hk
    obtain ⟨htop, hbot⟩ := (insideY_buildDescriptor _ v s row).mp hy
    obtain ⟨hleft, hright⟩ := (insideX_buildDescriptor _ v s col).mp hx
    rw [cellIndex, vramStride, Nat.mul_comm] at hcell
    exact ⟨row, col, hcell, hrow, hcol, htop, hbot, hleft, hright⟩
  · exact absurd rfl hk

end Sys2Proof.Machine
end

section
/-! PROOFS. 30_encoding.md rules R80 to R84: the command word both ways, and the matrix of rule R87 as the
command words it lists; then the decoder against the encoder, and every host access. -/

namespace Sys2Proof.Machine

/-! ### The command word (rule R83) -/

/-- A command word with bit 15 set is made of its mode bits and its operand fields: all 16 bits are used. -/
theorem bltWord_bltFields {w : Word} (h : w.getLsbD 15 = true) :
    bltWord (w.setWidth 5) (bltFields w) = w := by
  apply BitVec.eq_of_getLsbD_eq
  intro i hi
  rw [bltWord_getLsbD]
  interval_cases i <;> simp [bltFields, h]

theorem stopWord_setWidth {w : Word} (h : w.getLsbD 15 = false) : stopWord (w.setWidth 15) = w := by
  apply BitVec.eq_of_getLsbD_eq
  intro i hi
  rw [stopWord, BitVec.getLsbD_setWidth, BitVec.getLsbD_setWidth]
  by_cases h15 : i = 15
  · rw [h15, h]
    rfl
  · simp [hi, show i < 15 by omega]

/-- A stop word decodes to its `DMA.STOP`. -/
theorem decodeCommand_stopWord (r : BitVec 15) : decodeCommand (stopWord r) = .dmaStop r := by
  rw [decodeCommand, stopWord_getLsbD_fifteen, if_neg Bool.false_ne_true, stopWord,
    BitVec.setWidth_setWidth_of_le _ (by decide), BitVec.setWidth_eq]

theorem decodeCommand_of_stop {w : Word} (h : w.getLsbD 15 = false) :
    decodeCommand w = .dmaStop (w.setWidth 15) := by
  rw [decodeCommand, h, if_neg Bool.false_ne_true]

/-- A go command word decodes to the operation of its mode bits, with its own operand fields. -/
theorem decodeCommand_bltWord (m : BitVec 5) (f : BltFields) :
    decodeCommand (bltWord m f) =
      bltInstr (m.getLsbD 4) (m.getLsbD 3) (m.getLsbD 2) (m.getLsbD 1) (m.getLsbD 0) f := by
  simp (disch := decide) only [decodeCommand, bltWord_go, if_true, bltFields_bltWord, bltWord_mode]

/-- A go command word's variant comes from its mode bits alone (rule R86). -/
theorem variantOf_bltWord (m : BitVec 5) (f : BltFields) :
    variantOf (bltWord m f) = variantOf (m.setWidth 16) := by
  simp (disch := decide) only [variantOf, bltWord_mode, BitVec.getLsbD_setWidth]
  rfl

/-- The matrix of rule R87, mode by mode: the operation its command word decodes to, and the variant its mode
bits select by rule R86. -/
theorem modeRows_eq_map (f : BltFields) :
    modeRows f = (List.finRange 32).map fun k => (decodeCommand (bltWord (BitVec.ofFin k) f), BitVec.ofFin k,
      variantOf (bltWord (BitVec.ofFin k) f)) := by
  simp only [decodeCommand_bltWord, variantOf_bltWord]
  rfl

theorem mem_modeRows_iff {f : BltFields} {i : Instr} {m : BitVec 5} {v : Variant} :
    (i, m, v) ∈ modeRows f ↔ i = decodeCommand (bltWord m f) ∧ v = variantOf (bltWord m f) := by
  rw [modeRows_eq_map, List.mem_map]
  constructor
  · rintro ⟨k, -, hk⟩
    cases hk
    exact ⟨rfl, rfl⟩
  · rintro ⟨rfl, rfl⟩
    exact ⟨m.toFin, List.mem_finRange _, rfl⟩

/-- A command word is a stop, or the command word of a row of the matrix. -/
theorem decodeCommand_cases (w : Word) :
    (w.getLsbD 15 = false ∧ decodeCommand w = .dmaStop (w.setWidth 15)) ∨
    (w.getLsbD 15 = true ∧ bltWord (w.setWidth 5) (bltFields w) = w ∧
      (decodeCommand w, w.setWidth 5, variantOf w) ∈ modeRows (bltFields w)) := by
  cases h : w.getLsbD 15 with
  | false => exact .inl ⟨rfl, decodeCommand_of_stop h⟩
  | true =>
    have hw := bltWord_bltFields h
    exact .inr ⟨rfl, hw, mem_modeRows_iff.mpr (by rw [hw]; exact ⟨rfl, rfl⟩)⟩

theorem encode_of_mem_modeRows {f : BltFields} {i : Instr} {m : BitVec 5} {v : Variant}
    (h : (i, m, v) ∈ modeRows f) (c : Context) : encode c i = commandCall c (bltWord m f) := by
  have hrows : (modeRows f).map (fun x => encode c x.1) =
      (modeRows f).map fun x => commandCall c (bltWord x.2.1 f) := rfl
  exact List.map_inj_left.mp hrows (i, m, v) h

theorem wf_of_mem_modeRows {f : BltFields} {i : Instr} {m : BitVec 5} {v : Variant}
    (h : (i, m, v) ∈ modeRows f) (c : Context) : i.wf c = (c.live && commandReachable c) := by
  have hrows : (modeRows f).map (fun x => x.1.wf c) =
      (modeRows f).map fun _ => (c.live && commandReachable c) := rfl
  exact List.map_inj_left.mp hrows (i, m, v) h

/-- Settles O2: it holds. A stop word is its low bits, and a go word its mode and fields. -/
theorem commandWordsReencode : Obligations.CommandWordsReencode := by
  intro c w
  obtain ⟨h, hd⟩ | ⟨-, hw, hmem⟩ := decodeCommand_cases w
  · rw [hd, encode, stopWord_setWidth h]
  · rw [encode_of_mem_modeRows hmem, hw]

/-! ### The decoder against the encoder (rules R80 to R82) -/

/-- A masked register write, by what its offset names (rule R82). -/
theorem decode_register_plain {c : Context} (hl : c.live = true) {off : Nat}
    (h : registerAt c.regMap off ≠ 14) (data : Word) (mask : ByteMask) :
    decode c (.port .register .W off data mask.bits) = .ok (.dmaWr off data mask) := by
  simp [decode_of_live hl, decodeCall, decodePort, h]

theorem decode_register_command {c : Context} (hl : c.live = true) {off : Nat}
    (h : registerAt c.regMap off = 14) (data : Word) (mask : ByteMask) :
    decode c (.port .register .W off data mask.bits) =
      .ok (decodeCommand (merge16 c.command data mask)) := by
  simp [decode_of_live hl, decodeCall, decodePort, h]

/-- The call that carries a command word decodes to the word's operation (rule R83). -/
theorem decode_commandCall {c : Context} (hl : c.live = true) (hr : commandReachable c = true) (w : Word) :
    decode c (commandCall c w) = .ok (decodeCommand w) := by
  have h := decode_register_command hl (registerAt_commandOffset hr) w ⟨true, true⟩
  rwa [merge16_full] at h

theorem decode_commandCall_bltWord {c : Context} (hl : c.live = true) (hr : commandReachable c = true)
    (m : BitVec 5) (f : BltFields) :
    decode c (commandCall c (bltWord m f)) =
      .ok (bltInstr (m.getLsbD 4) (m.getLsbD 3) (m.getLsbD 2) (m.getLsbD 1) (m.getLsbD 0) f) := by
  rw [decode_commandCall hl hr, decodeCommand_bltWord]

/-- A protection operation decodes from its call where its chip is fitted (rule R81, U19). -/
theorem decode_encode_of_isProtection {c : Context} {i : Instr} (hp : isProtection i = true)
    (h : i.wf c = true) : decode c (encode c i) = .ok i := by
  cases i with
  | prot1Rd | prot1Wr _ _ | prot2Rd | prot2RdSh | prot2RdC | prot2Wr _ _ | prot3Rd | prot3Wr _ _
  | prot4Wr _ | prot4Rd | prot5Wr _ | prot5Rd | prot5Status =>
    obtain ⟨hl, hchip⟩ := Bool.and_eq_true_iff.mp h
    rcases hc : c.chip with _ | (_ | _ | _ | _ | _) <;> simp [chipIs, hc] at hchip
    simp [encode, decode_of_live hl, decodeCall, decodePort, decodeProtection, hc]
  | _ => exact absurd hp Bool.false_ne_true

/-- Settles O1: it holds. A register write decodes by what its offset names, a command word by its bits, a
protection access by the chip, an attach by its parameters, and every other call by its port alone. -/
theorem decodeEncodeAgree : Obligations.DecodeEncodeAgree := by
  intro c i h
  cases i with
  | dmaWr off data mask =>
    obtain ⟨hl, hoff⟩ := Bool.and_eq_true_iff.mp h
    exact decode_register_plain hl (of_decide_eq_true hoff) data mask
  | dmaStop r =>
    obtain ⟨hl, hr⟩ := Bool.and_eq_true_iff.mp h
    rw [encode, decode_commandCall hl hr, decodeCommand_stopWord]
  | blt00 f | blt01 f | blt02 f | blt03 f | blt04 f | blt05 f | blt06 f | blt07 f
  | blt08 f | blt09 f | blt0A f | blt0B f | blt0C f | blt0D f | blt0E f | blt0F f
  | blt10 f | blt11 f | blt12 f | blt13 f | blt14 f | blt15 f | blt16 f | blt17 f
  | blt18 f | blt19 f | blt1A f | blt1B f | blt1C f | blt1D f | blt1E f | blt1F f =>
    obtain ⟨hl, hr⟩ := Bool.and_eq_true_iff.mp h
    exact decode_commandCall_bltWord hl hr _ f
  | reset p blob => simp [encode, decode, Call.isAttach, decodeCall, decodeEvent, show p.wf = true from h]
  | ctrlWr _ _ | vramWr _ _ _ | cmosWr _ _ _ =>
    simp [encode, decode_of_live (show c.live = true from h), decodeCall, decodePort]
  | dmaRd _ | dmaDone | vramRd _ | palWr _ _ | vidLine _ _ | vidEof _ | srToHost _ | srFromHost _ _
  | cmosRd _ | cmosEn _ | cmosLoad _ | cmosSave => exact decode_of_live h _
  | prot1Rd | prot1Wr _ _ | prot2Rd | prot2RdSh | prot2RdC | prot2Wr _ _ | prot3Rd | prot3Wr _ _
  | prot4Wr _ | prot4Rd | prot5Wr _ | prot5Rd | prot5Status => exact decode_encode_of_isProtection rfl h

end Sys2Proof.Machine
end

section
/-! PROOFS. 30_encoding.md rules R81 to R83: the operation of every host access, the accesses that have none,
and that what decodes is an operation the context carries. -/

namespace Sys2Proof.Machine

/-! ### Masked bytes (rule R51) -/

theorem ByteMask.bits_getLsbD (k : ByteMask) {b : Nat} (hb : b < 16) :
    k.bits.getLsbD b = if b < 8 then k.lo else k.hi := by
  obtain ⟨lo, hi⟩ := k
  cases lo <;> cases hi <;> simp [ByteMask.bits] <;> interval_cases b <;> rfl

/-- `merge16` is the merge of the enabled bytes (rule R8). -/
theorem mergesInto_merge16 (old data : Word) (k : ByteMask) :
    MergesInto old data k (merge16 old data k) := by
  intro b hb
  rw [merge16, BitVec.getLsbD_or, BitVec.getLsbD_and, BitVec.getLsbD_and, BitVec.getLsbD_not,
    ByteMask.bits_getLsbD k hb]
  cases (if b < 8 then k.lo else k.hi) <;> simp [hb]

theorem byteMask?_eq_none {m : Word} (h : m ∉ [0xFFFF#16, 0x00FF#16, 0xFF00#16, 0x0000#16]) :
    byteMask? m = none := by
  simp only [List.mem_cons, List.not_mem_nil, or_false, not_or] at h
  obtain ⟨hfull, hlo, hhi, hempty⟩ := h
  rw [byteMask?, if_neg hfull, if_neg hlo, if_neg hhi, if_neg hempty]

/-- A masked access that decodes has one of the four masks. -/
theorem exists_of_elim_eq_ok {m : Word} {decoded : ByteMask → Except DecodeReject Instr} {i : Instr}
    (h : (byteMask? m).elim (.error .badMask) decoded = .ok i) : ∃ k, decoded k = .ok i := by
  cases hm : byteMask? m with
  | none => rw [hm] at h; cases h
  | some k => rw [hm] at h; exact ⟨k, h⟩

/-! ### Accesses but the protection's (rules R81, R82) -/

theorem decodePort_of_mem_portOperations {off : Nat} {data : Word} {port : Port} {dir : Dir} {i : Instr}
    (h : (port, dir, i) ∈ portOperations off data) (c : Context) (anyMask : Word) :
    decodePort c port dir off data anyMask = .ok i := by
  have hrows : (portOperations off data).map (fun x => decodePort c x.1 x.2.1 off data anyMask) =
      (portOperations off data).map fun x => .ok x.2.2 := rfl
  exact List.map_inj_left.mp hrows (port, dir, i) h

theorem decodePort_of_mem_maskedPortOperations {off : Nat} {data : Word} {mask : ByteMask} {port : Port}
    {dir : Dir} {i : Instr} (h : (port, dir, i) ∈ maskedPortOperations off data mask) (c : Context) :
    decodePort c port dir off data mask.bits = .ok i := by
  have hrows : (maskedPortOperations off data mask).map
        (fun x => decodePort c x.1 x.2.1 off data mask.bits) =
      (maskedPortOperations off data mask).map fun x => .ok x.2.2 := by
    simp [maskedPortOperations, decodePort]
  exact List.map_inj_left.mp hrows (port, dir, i) h

/-- An illegal mask is rejected where the operation has a mask operand (log 3). -/
theorem decodePort_badMask {m : Word} (hm : byteMask? m = none) {port : Port}
    (hp : port ∈ [Port.register, .control, .vram, .cmos]) (c : Context) (off : Nat) (data : Word) :
    decodePort c port .W off data m = .error .badMask := by
  simp only [List.mem_cons, List.not_mem_nil, or_false] at hp
  rcases hp with rfl | rfl | rfl | rfl <;> rw [decodePort, hm] <;> rfl

/-- No rule lists a read of these ports (log 3). -/
theorem decodePort_noSuchAccess {port : Port} (hp : port ∈ [Port.control, .palette, .cmosEnable])
    (c : Context) (off : Nat) (data m : Word) : decodePort c port .R off data m = .error .noSuchAccess := by
  simp only [List.mem_cons, List.not_mem_nil, or_false] at hp
  rcases hp with rfl | rfl | rfl <;> rfl

/-! ### Protection accesses (rule R81, U19) -/

section Chips
variable {c : Context} {chip : Nat} {sub : ProtSub} {dir : Dir} {i : Instr}

theorem decodeProtection_of_mem_chipOperations {off : Nat} {data : Word}
    (h : (chip, sub, dir, i) ∈ chipOperations off data) (hc : chipIs c chip = true) (anyMask : Word) :
    decodeProtection c.chip sub dir off data anyMask = .ok i := by
  have hrows : ∀ x ∈ chipOperations off data, chipIs c x.1 = true →
      decodeProtection c.chip x.2.1 x.2.2.1 off data anyMask = .ok x.2.2.2 := by
    simp only [chipOperations, List.forall_mem_cons]
    rcases hfit : c.chip with _ | (_ | _ | _ | _ | _) <;> simp [chipIs, hfit, decodeProtection]
  exact hrows (chip, sub, dir, i) h hc

theorem decodeProtection_of_mem_maskedChipOperations {data : Word} {mask : ByteMask}
    (h : (chip, sub, dir, i) ∈ maskedChipOperations data mask) (hc : chipIs c chip = true) (off : Nat) :
    decodeProtection c.chip sub dir off data mask.bits = .ok i := by
  have hrows : ∀ x ∈ maskedChipOperations data mask, chipIs c x.1 = true →
      decodeProtection c.chip x.2.1 x.2.2.1 off data mask.bits = .ok x.2.2.2 := by
    simp only [maskedChipOperations, List.forall_mem_cons]
    rcases hfit : c.chip with _ | (_ | _ | _ | _ | _) <;> simp [chipIs, hfit, decodeProtection]
  exact hrows (chip, sub, dir, i) h hc

theorem decodeProtection_badMask {m : Word} (hm : byteMask? m = none)
    (hc : chipIs c 1 = true ∨ chipIs c 2 = true) (off : Nat) (data : Word) :
    decodeProtection c.chip .plain .W off data m = .error .badMask := by
  rcases hfit : c.chip with _ | (_ | _ | _ | _ | _) <;> simp [chipIs, hfit] at hc
  all_goals simp [decodeProtection, hm]

/-- An access that is in no row of the fitted chip is rejected (log 10). -/
theorem decodeProtection_noSuchProtection
    (h : ∀ chip, chipAccess chip sub dir = true → chipIs c chip = false) (off : Nat) (data m : Word) :
    decodeProtection c.chip sub dir off data m = .error .noSuchProtection := by
  obtain ⟨live, regMap, command, fitted⟩ := c
  dsimp only
  fun_cases decodeProtection fitted sub dir off data m with
  | case1 | case2 => exact absurd (h 1 (by decide)) Bool.false_ne_true.symm
  | case3 | case4 | case5 | case6 => exact absurd (h 2 (by decide)) Bool.false_ne_true.symm
  | case7 | case8 => exact absurd (h 3 (by decide)) Bool.false_ne_true.symm
  | case9 | case10 => exact absurd (h 4 (by decide)) Bool.false_ne_true.symm
  | case11 | case12 | case13 => exact absurd (h 5 (by decide)) Bool.false_ne_true.symm
  | case14 => rfl

/-- A protection access decodes to an operation of the fitted chip. -/
theorem wf_of_decodeProtection (hl : c.live = true) {off : Nat} {data m : Word}
    (h : decodeProtection c.chip sub dir off data m = .ok i) : i.wf c = true := by
  obtain ⟨live, regMap, command, fitted⟩ := c
  obtain rfl : live = true := hl
  dsimp only at h
  revert h
  fun_cases decodeProtection fitted sub dir off data m with
  | case2 | case6 =>
    intro h
    obtain ⟨k, ⟨⟩⟩ := exists_of_elim_eq_ok h
    rfl
  | case1 | case3 | case4 | case5 | case7 | case8 | case9 | case10 | case11 | case12 | case13 =>
    rintro ⟨⟩
    rfl
  | case14 => rintro ⟨⟩

end Chips

/-! ### What decodes is an operation the context carries -/

theorem commandReachable_of_registerAt {c : Context} {off : Nat} (h : registerAt c.regMap off = 14) :
    commandReachable c = true :=
  List.any_eq_true.mpr ⟨Fin.ofNat 16 off, List.mem_finRange _, decide_eq_true h⟩

theorem wf_decodeCommand {c : Context} (hl : c.live = true) (hr : commandReachable c = true) (w : Word) :
    (decodeCommand w).wf c = true := by
  obtain ⟨-, hd⟩ | ⟨-, -, hmem⟩ := decodeCommand_cases w
  · rw [hd, Instr.wf, hl, hr]
    rfl
  · rw [wf_of_mem_modeRows hmem, hl, hr]
    rfl

theorem wf_of_decodePort {c : Context} (hl : c.live = true) {port : Port} {dir : Dir} {off : Nat}
    {data m : Word} {i : Instr} (h : decodePort c port dir off data m = .ok i) : i.wf c = true := by
  revert h
  fun_cases decodePort c port dir off data m with
  | case1 =>
    intro h
    obtain ⟨k, hk⟩ := exists_of_elim_eq_ok h
    split at hk
    · next hoff =>
      cases hk
      exact wf_decodeCommand hl (commandReachable_of_registerAt hoff) _
    · next hoff =>
      cases hk
      exact Bool.and_eq_true_iff.mpr ⟨hl, decide_eq_true hoff⟩
  | case3 | case4 | case8 =>
    intro h
    obtain ⟨k, ⟨⟩⟩ := exists_of_elim_eq_ok h
    exact hl
  | case2 | case5 | case6 | case7 | case9 =>
    rintro ⟨⟩
    exact hl
  | case10 sub => exact wf_of_decodeProtection hl
  | case11 | case12 | case13 => rintro ⟨⟩

/-- An attach that decodes has parameters the spec allows (log 7). -/
theorem wf_of_decode_attach {c : Context} {p : Params} {blob : Blob} {i : Instr}
    (h : decode c (.event (.attach p blob)) = .ok i) : i.wf c = true := by
  simp only [decode, Call.isAttach, Bool.or_true, if_true, decodeCall, decodeEvent] at h
  split at h
  · next hp =>
    cases h
    exact hp
  · cases h

theorem wf_of_decode {c : Context} {call : Call} {i : Instr} (h : decode c call = .ok i) :
    i.wf c = true := by
  by_cases ha : ∀ p blob, call ≠ .event (.attach p blob)
  · cases hl : c.live with
    | false => rw [decode_of_destroyed hl ha] at h; cases h
    | true =>
      rw [decode_of_live hl] at h
      rcases call with ⟨port, dir, off, data, m⟩ | e
      · exact wf_of_decodePort hl h
      · cases e with
        | attach p blob => exact absurd rfl (ha p blob)
        | _ => cases h; exact hl
  · push Not at ha
    obtain ⟨p, blob, rfl⟩ := ha
    exact wf_of_decode_attach h

/-- Settles O5: it holds, access by access; on a live board `decode` is `decodePort`. -/
theorem hostAccessesDecode : Obligations.HostAccessesDecode := by
  intro c off data anyMask mask hl
  have hport (port : Port) (dir : Dir) (m : Word) :
      decode c (.port port dir off data m) = decodePort c port dir off data m := decode_of_live hl _
  simp only [hport]
  refine ⟨fun h => ?_, fun h => ⟨_, mergesInto_merge16 _ _ _, ?_⟩,
    fun _ _ _ h => decodePort_of_mem_portOperations h c anyMask,
    fun _ _ _ h => decodePort_of_mem_maskedPortOperations h c,
    fun _ _ _ _ h hc => decodeProtection_of_mem_chipOperations h hc anyMask,
    fun _ _ _ _ h hc => decodeProtection_of_mem_maskedChipOperations h hc off,
    fun h => ⟨fun _ hp => decodePort_badMask (byteMask?_eq_none h) hp c off data,
      fun hc => decodeProtection_badMask (byteMask?_eq_none h) hc off data⟩,
    fun _ hp => decodePort_noSuchAccess hp c off data anyMask,
    fun _ _ h => decodeProtection_noSuchProtection h off data anyMask,
    fun _ _ h => wf_of_decode h⟩
  · rw [← hport, decode_register_plain hl h]
  · rw [← hport, decode_register_command hl h]

end Sys2Proof.Machine
end

section
/-! PROOFS. 30_encoding.md rules R82, R83 and 40_dma_registers.md rule R110: what a command word does, said
once for the write that reaches `COMMAND` and for the operation the word decodes to. -/

namespace Sys2Proof.Machine

/-- The operation of a command word is `CommandWritten()` on it (rules R83, R120). -/
theorem exec_decodeCommand (w : Word) (s : State) :
    exec (decodeCommand w) s = .next (setOut (commandWritten w s) none) := by
  obtain ⟨h, hd⟩ | ⟨h, hw, hmem⟩ := decodeCommand_cases w
  · rw [hd, commandWritten, h, if_neg Bool.false_ne_true]
    simp only [exec, execDmaStop, stopWord_setWidth h]
  · rw [exec_of_mem_modeRows hmem, runBlit, hw, commandWritten, if_pos h]

/-- Settles O14: it holds. Both sides are `CommandWritten()` on the merged word. -/
theorem commandWriteRunsMergedWord : Obligations.CommandWriteRunsMergedWord := by
  intro s off data mask h
  exact ⟨_, mergesInto_merge16 _ data mask, by rw [exec_dmaWr_command h, exec_decodeCommand]⟩

/-! ### The calls waiting (rule R291; log 1) -/

/-- `s` with other calls waiting. -/
def withPending (calls : List Call) (s : State) : State := { s with pending := calls }

theorem scheduleCompletion_withPending (n : Nat) (calls : List Call) (s : State) :
    scheduleCompletion n (withPending calls s) = withPending calls (scheduleCompletion n s) := by
  unfold scheduleCompletion
  rw [apply_ite (withPending calls)]
  rfl

theorem go_withPending (c : Word) (v : Variant) (calls : List Call) (s : State) :
    go c v (withPending calls s) = withPending calls (go c v s) := by
  unfold go
  rw [← scheduleCompletion_withPending, apply_ite (withPending calls)]
  rfl

/-- A command does not look at the calls waiting. -/
theorem commandWritten_withPending (w : Word) (calls : List Call) (s : State) :
    commandWritten w (withPending calls s) = withPending calls (commandWritten w s) := by
  unfold commandWritten
  rw [apply_ite (withPending calls), ← go_withPending]
  rfl

/-- Settles O7: it holds. The placed call decodes to the word's operation, which does the same to a board with
one more call waiting; the step then takes that call off the list. -/
theorem placedCommandWordRuns : Obligations.PlacedCommandWordRuns := by
  intro s t w hl hr he
  have hplaced : s.withFetchWord 16 w.toNat = withPending (commandCall s.context w :: s.pending) s := by
    rw [State.withFetchWord, Nat.mod_eq_of_lt w.isLt, BitVec.ofNat_toNat, BitVec.setWidth_eq]
    rfl
  have hd : decode (withPending (commandCall s.context w :: s.pending) s).context (commandCall s.context w) =
      .ok (decodeCommand w) := decode_commandCall hl hr w
  rw [hplaced, step_of_decode_ok rfl hd, ← he, exec_decodeCommand, exec_decodeCommand,
    commandWritten_withPending, finish, conclude_of_ne (by simp [commandCall]), ← commandWritten_pending w s]
  rfl

end Sys2Proof.Machine
end

section
/-! PROOFS. 30_encoding.md rules R81, R83: the fields of a go command word as numbers, and words written out. -/

namespace Sys2Proof.Machine

/-- The layout of a go command word, written as rule R83 writes it: `1 bbb qq pp s c y mmmmm`. -/
theorem bltWord_eq_append (m : BitVec 5) (f : BltFields) :
    bltWord m f = 1#1 ++ f.bpp ++ f.postSh ++ f.preSh ++ BitVec.ofBool f.skipEn ++ BitVec.ofBool f.clipDrop ++
      BitVec.ofBool f.yflip ++ m := by
  apply BitVec.eq_of_getLsbD_eq
  intro i hi
  rw [bltWord_getLsbD]
  simp only [BitVec.getLsbD_append]
  interval_cases i <;> rfl

/-- A field put after another counts on from where the other ends. -/
theorem toNat_append_eq_add {v w : Nat} (x : BitVec v) (y : BitVec w) :
    (x ++ y).toNat = 2 ^ w * x.toNat + y.toNat := by
  rw [BitVec.toNat_append, Nat.shiftLeft_eq, Nat.mul_comm, ← Nat.two_pow_add_eq_or_of_lt y.isLt]

/-- Settles O3: it holds. The word is its fields one after the other, each of which shifts the ones before it. -/
theorem commandFieldPlaces : Obligations.CommandFieldPlaces := by
  intro m f
  have hlayout : (bltWord m f).toNat = (1#1 ++ f.bpp ++ f.postSh ++ f.preSh ++ BitVec.ofBool f.skipEn ++
      BitVec.ofBool f.clipDrop ++ BitVec.ofBool f.yflip ++ m).toNat :=
    congrArg BitVec.toNat (bltWord_eq_append m f)
  simp only [toNat_append_eq_add, BitVec.toNat_ofBool, BitVec.toNat_ofNat] at hlayout
  omega

/-- Settles O4: it holds. Each word and each call evaluates to its operation. -/
theorem specWordsDecode : Obligations.SpecWordsDecode := by
  unfold Obligations.SpecWordsDecode
  decide

end Sys2Proof.Machine
end

section
/-! PROOFS. 42_blitter.md rule R141: a transfer as the list of its pixels in drawing order. The pixel loop, the
row loop and the drop test of the clip are read off the same columns, in skip mode and without it. -/

namespace Sys2Proof.Machine

/-! ### What one cell shows of a list of pixels (rule R146) -/

/-- What `d` emits for a source pixel is what a mode with the policies of `v` shows of it. -/
def EmitsAs (s : State) (v : Variant) (d : Descriptor) : Prop :=
  ∀ px old, (emitted d px).getD old = pixelCell s v px old

theorem emitsAs_buildDescriptor (c : Word) (v : Variant) (s : State) :
    EmitsAs s v (buildDescriptor c v s) := by
  intro px old
  have hp := pixelPolicy_buildDescriptor c v s px
  cases hc : (if px = 0#16 then v.zero else v.nonzero) with
  | none =>
    rw [emitted_of_none (hp.trans hc), pixelCell, hc]
    rfl
  | copy =>
    rw [emitted_of_copy (hp.trans hc), pixelCell, hc]
    rfl
  | color =>
    rw [emitted_of_color (hp.trans hc), pixelCell, hc]
    rfl

/-- A source pixel drawn twice over a cell shows what it shows once: no policy looks at what it covers. -/
theorem pixelCell_idem (s : State) (v : Variant) (px old : Word) :
    pixelCell s v px (pixelCell s v px old) = pixelCell s v px old := by
  unfold pixelCell
  split <;> rfl

section Picture
variable (s : State) (v : Variant) (bpp : Nat) {k : Nat} {a : BitAddr} {pixels : List (Nat × BitAddr)}

theorem pictureCell_cons (x : Nat × BitAddr) (pixels : List (Nat × BitAddr)) (k : Nat) (old : Word) :
    pictureCell s v bpp (x :: pixels) k old = pictureCell s v bpp pixels k
      (if x.1 = k then pixelCell s v (romBits s.params x.2 bpp) old else old) := rfl

theorem pictureCell_append (pixels pixels' : List (Nat × BitAddr)) (k : Nat) (old : Word) :
    pictureCell s v bpp (pixels ++ pixels') k old =
      pictureCell s v bpp pixels' k (pictureCell s v bpp pixels k old) := List.foldl_append

/-- A cell no pixel is drawn at keeps its value. -/
theorem pictureCell_of_forall_ne (h : ∀ x ∈ pixels, x.1 ≠ k) (old : Word) :
    pictureCell s v bpp pixels k old = old := by
  induction pixels with
  | nil => rfl
  | cons x xs ih =>
    rw [pictureCell_cons, if_neg (h x List.mem_cons_self)]
    exact ih fun y hy => h y (List.mem_cons_of_mem x hy)

/-- Once a source pixel shows in a cell, drawing the same pixel there again changes nothing. -/
theorem pictureCell_pixelCell (h : ∀ x ∈ pixels, x.1 = k → x.2 = a) (old : Word) :
    pictureCell s v bpp pixels k (pixelCell s v (romBits s.params a bpp) old) =
      pixelCell s v (romBits s.params a bpp) old := by
  induction pixels with
  | nil => rfl
  | cons x xs ih =>
    have hxs := ih fun y hy => h y (List.mem_cons_of_mem x hy)
    rw [pictureCell_cons]
    split
    · next hx => rw [h x List.mem_cons_self hx, pixelCell_idem, hxs]
    · exact hxs

/-- A cell at which one source pixel alone is drawn shows that pixel. -/
theorem pictureCell_of_mem (hmem : (k, a) ∈ pixels) (h : ∀ x ∈ pixels, x.1 = k → x.2 = a) (old : Word) :
    pictureCell s v bpp pixels k old = pixelCell s v (romBits s.params a bpp) old := by
  induction pixels with
  | nil => cases hmem
  | cons x xs ih =>
    have hxs : ∀ y ∈ xs, y.1 = k → y.2 = a := fun y hy => h y (List.mem_cons_of_mem x hy)
    rw [pictureCell_cons]
    split
    · next hx => rw [h x List.mem_cons_self hx, pictureCell_pixelCell s v bpp hxs]
    · next hx =>
      obtain rfl | hmem := List.mem_cons.mp hmem
      · exact absurd rfl hx
      · exact ih hmem hxs

end Picture

/-! ### The columns of a row -/

theorem iterate_stepColumn (p : Params) (d : Descriptor) (sx : Word) (j : Nat) :
    (fun x => stepColumn p d x 1)^[j] sx = columnFrom p d sx j := by
  induction j with
  | zero => rfl
  | succ j ih => rw [Function.iterate_succ_apply', ih]; rfl

theorem iterate_stepRow (p : Params) (d : Descriptor) (j : Nat) :
    (stepRow p d)^[j] d.ypos = rowFrom p d j := by
  induction j with
  | zero => rfl
  | succ j ih => rw [Function.iterate_succ_apply', ih]; rfl

/-- The columns the drop test looks at are those the pixel loop visits (rule R144). -/
theorem visitedColumns_eq_map {p : Params} {d : Descriptor} (hx : 1 ≤ d.xstep) (W : Nat) {fuel : Nat}
    (sx : Word) (ix : Nat) (h : W - ix ≤ fuel) :
    visitedColumns p d W fuel sx ix =
      (List.range ((W - ix + d.xstep - 1) / d.xstep)).map fun j => columnFrom p d sx j := by
  induction fuel generalizing sx ix with
  | zero => rw [loop_count_zero hx (by omega)]; rfl
  | succ fuel ih =>
    unfold visitedColumns
    split
    · next hlt =>
      rw [loop_count_pos hx hlt, ih _ _ (by omega), List.range_succ_eq_map, List.map_cons, List.map_map]
      simp only [← iterate_stepColumn]
      rfl
    · next hlt => rw [loop_count_zero hx hlt]; rfl

/-- The columns of a row, each with the bit address of its source pixel (rules R147, R148). -/
def rowColumns (p : Params) (d : Descriptor) (r : RowStart) : List (Word × BitAddr) :=
  (List.range ((r.limit - r.ix + d.xstep - 1) / d.xstep)).map fun j =>
    (columnFrom p d r.sx j, advanceCursor d r.cursor r.ix (r.ix + j * d.xstep))

/-- A visited column: its pixel is plotted where the clip rectangle lets it through (rule R141 (c)). -/
def plotColumn (p : Params) (d : Descriptor) (sy : Word) (vram : Memory) (x : Word × BitAddr) : Memory :=
  if insideX d x.1 then plotPixel p d sy x.1 x.2 vram else vram

theorem pixelLoop_eq_foldl_rowColumns {p : Params} {d : Descriptor} (hx : 1 ≤ d.xstep) (sy : Word)
    (r : RowStart) (vram : Memory) :
    pixelLoop p d sy r.limit r.limit r.sx r.ix r.cursor vram =
      (rowColumns p d r).foldl (plotColumn p d sy) vram := by
  rw [pixelLoop_eq_foldl hx sy r.limit r.sx r.ix r.cursor vram (Nat.sub_le _ _), rowColumns, List.foldl_map]
  simp only [iterate_stepColumn]
  rfl

theorem insideX_eq_decide (d : Descriptor) (col : Word) : insideX d col = decide (inClipColumns d col) :=
  (Bool.decide_and _ _).symm

theorem insideY_iff (d : Descriptor) (row : Word) :
    insideY d row = true ↔ d.topclip ≤ row.toNat ∧ row.toNat ≤ d.botclip := by
  rw [insideY, Bool.and_eq_true, decide_eq_true_eq, decide_eq_true_eq]

/-! ### Rows and transfers -/

theorem plotPixel_wf (p : Params) (d : Descriptor) (sy sx : Word) (o : BitAddr) {vram : Memory}
    (hw : vram.wf = true) : (plotPixel p d sy sx o vram).wf = true := by
  unfold plotPixel
  split
  · exact hw
  · exact Memory.wf_write hw _ _

theorem plotColumn_wf (p : Params) (d : Descriptor) (sy : Word) (x : Word × BitAddr) {vram : Memory}
    (hw : vram.wf = true) : (plotColumn p d sy vram x).wf = true := by
  unfold plotColumn
  split
  · exact plotPixel_wf p d sy x.1 x.2 hw
  · exact hw

theorem foldl_plotColumn_wf (p : Params) (d : Descriptor) (sy : Word) (columns : List (Word × BitAddr))
    {vram : Memory} (hw : vram.wf = true) : (columns.foldl (plotColumn p d sy) vram).wf = true := by
  induction columns generalizing vram with
  | nil => exact hw
  | cons x xs ih => exact ih (plotColumn_wf p d sy x hw)

/-- The row is drawn at all: vertical clip, and the drop test over its columns (rules R143, R144). -/
theorem rowVisible_iff {p : Params} {d : Descriptor} (hx : 1 ≤ d.xstep) (sy : Word) (r : RowStart) :
    rowVisible p d sy r = true ↔ d.topclip ≤ sy.toNat ∧ sy.toNat ≤ d.botclip ∧
      (d.clipdrop = true → (rowColumns p d r).all (fun x => inClipColumns d x.1) = true) := by
  have hall : (visitedColumns p d r.limit r.limit r.sx r.ix).all (insideX d) =
      (rowColumns p d r).all fun x => inClipColumns d x.1 := by
    rw [visitedColumns_eq_map hx r.limit r.sx r.ix (Nat.sub_le _ _), rowColumns, List.all_map, List.all_map]
    simp only [Function.comp_def, insideX_eq_decide]
  rw [rowVisible, Bool.and_eq_true, insideY_iff, and_assoc, hall]
  cases d.clipdrop <;> simp

/-- A row as a fold over its columns. -/
theorem drawRow_eq {p : Params} {d : Descriptor} (hx : 1 ≤ d.xstep) (sy : Word) (offset : BitAddr)
    (vram : Memory) :
    drawRow p d sy offset vram = if rowVisible p d sy (rowStart p d offset) then
      (rowColumns p d (rowStart p d offset)).foldl (plotColumn p d sy) vram else vram := by
  rw [← pixelLoop_eq_foldl_rowColumns hx]
  rfl

theorem drawRow_wf {p : Params} {d : Descriptor} (hx : 1 ≤ d.xstep) (sy : Word) (offset : BitAddr)
    {vram : Memory} (hw : vram.wf = true) : (drawRow p d sy offset vram).wf = true := by
  rw [drawRow_eq hx]
  split
  · exact foldl_plotColumn_wf p d sy _ hw
  · exact hw

/-- The pixels of a transfer in drawing order, where destination row `r` visits `columns r`. -/
def transferPixels (p : Params) (d : Descriptor) (columns : Nat → List (Word × BitAddr)) :
    List (Nat × BitAddr) :=
  (List.range (drawnRows d)).flatMap fun r => rowPixels p d (rowFrom p d r) (columns r)

section Transfer
variable {s : State} {v : Variant} {d : Descriptor} (he : EmitsAs s v d)
include he

theorem foldl_plotColumn_read (sy : Word) (columns : List (Word × BitAddr)) {vram : Memory}
    (hw : vram.wf = true) (k : Nat) :
    (columns.foldl (plotColumn s.params d sy) vram).read k =
      pictureCell s v d.bpp ((columns.filter fun x => inClipColumns d x.1).map fun x =>
        ((512 * sy.toNat + x.1.toNat) % s.params.vramCells, x.2)) k (vram.read k) := by
  induction columns generalizing vram with
  | nil => rfl
  | cons x xs ih =>
    rw [List.foldl_cons, ih (plotColumn_wf s.params d sy x hw), plotColumn, insideX_eq_decide,
      List.filter_cons]
    split
    · rw [List.map_cons, pictureCell_cons, plotPixel_read d sy x.1 x.2 hw, he, cellIndex, vramStride,
        Nat.mul_comm sy.toNat]
      simp only [eq_comm]
    · rfl

theorem drawRow_read (hx : 1 ≤ d.xstep) (sy : Word) (offset : BitAddr) {vram : Memory}
    (hw : vram.wf = true) (k : Nat) :
    (drawRow s.params d sy offset vram).read k =
      pictureCell s v d.bpp (rowPixels s.params d sy (rowColumns s.params d (rowStart s.params d offset))) k
        (vram.read k) := by
  rw [drawRow_eq hx, rowPixels]
  by_cases hvis : rowVisible s.params d sy (rowStart s.params d offset) = true
  · rw [if_pos hvis, if_pos ((rowVisible_iff hx sy _).mp hvis), foldl_plotColumn_read he sy _ hw]
  · rw [if_neg hvis, if_neg (mt (rowVisible_iff hx sy _).mpr hvis)]
    rfl

theorem foldl_drawRow_read (hx : 1 ≤ d.xstep) (sy : Nat → Word) (offset : Nat → BitAddr) (rows : List Nat)
    {vram : Memory} (hw : vram.wf = true) (k : Nat) :
    (rows.foldl (fun m r => drawRow s.params d (sy r) (offset r) m) vram).read k =
      pictureCell s v d.bpp (rows.flatMap fun r => rowPixels s.params d (sy r)
        (rowColumns s.params d (rowStart s.params d (offset r)))) k (vram.read k) := by
  induction rows generalizing vram with
  | nil => rfl
  | cons r rs ih =>
    rw [List.foldl_cons, ih (drawRow_wf hx _ _ hw), drawRow_read he hx _ _ hw, List.flatMap_cons,
      pictureCell_append]

/-- The picture of a transfer: each row's columns, read from the source row it shows (rules R141, R149). -/
theorem draw_read (hx : 1 ≤ d.xstep) (hy : 1 ≤ d.ystep) {vram : Memory} (hw : vram.wf = true) (k : Nat) :
    (draw s.params d vram).read k =
      pictureCell s v d.bpp (transferPixels s.params d fun r => rowColumns s.params d
        (rowStart s.params d (nextRows s.params d (r * d.ystep / 256) d.offset))) k (vram.read k) := by
  rw [draw, rowLoop_eq_foldl hy d.ypos 0 d.offset vram (Nat.sub_le _ _)]
  simp only [iterate_stepRow, Nat.zero_add, Nat.zero_div, Nat.sub_zero]
  exact foldl_drawRow_read he hx (rowFrom s.params d) _ _ hw k

end Transfer

end Sys2Proof.Machine
end

section
/-! PROOFS. 42_blitter.md rules R59, R148: the picture of a flat rectangle. Its rows and columns never wrap, so
each of its pixels has a cell of its own. -/

namespace Sys2Proof.Machine

/-! ### Row and column numbers without a wrap -/

/-- A row or column that steps by one under a mask of low bits counts plainly while it stays below `bound`. -/
theorem toNat_of_masked_steps {f : Nat → Word} {flip : Bool} {mask : Word} {bound n : Nat}
    (hstep : ∀ n, f (n + 1) = (if flip then f n - 1#16 else f n + 1#16) &&& mask)
    (hmask : ∀ w : Word, (w &&& mask).toNat = w.toNat % bound) (hbound : bound ≤ 65536)
    (h : if flip then (f 0).toNat < bound ∧ n ≤ (f 0).toNat else (f 0).toNat + n < bound) :
    (f n).toNat = if flip then (f 0).toNat - n else (f 0).toNat + n := by
  induction n with
  | zero => split <;> rfl
  | succ n ih =>
    rw [hstep, hmask]
    cases flip with
    | false =>
      simp only [Bool.false_eq_true, if_false] at h ih ⊢
      rw [BitVec.toNat_add_of_lt] <;> rw [ih (by omega)]
      · exact Nat.mod_eq_of_lt h
      · exact Nat.lt_of_lt_of_le h hbound
    | true =>
      simp only [if_true] at h ih ⊢
      rw [BitVec.toNat_sub_of_le, ih (by omega)]
      · exact Nat.mod_eq_of_lt (by omega)
      · have hone : (1#16).toNat = 1 := rfl
        rw [BitVec.le_def, ih (by omega), hone]
        omega

/-- The first column of a row `n` columns on from `x`, where it passes no edge (rule R142). -/
theorem toNat_masked_jump {p : Params} (hm : p.xposMask = 0x3FF#16) {flip : Bool} {x : Word} {n : Nat}
    (h : if flip then x.toNat < 1024 ∧ n ≤ x.toNat else x.toNat + n < 1024) :
    ((if flip then x - BitVec.ofNat 16 n else x + BitVec.ofNat 16 n) &&& p.xposMask).toNat =
      if flip then x.toNat - n else x.toNat + n := by
  rw [hm, toNat_and_0x3FF]
  cases flip with
  | false =>
    simp only [Bool.false_eq_true, if_false] at h ⊢
    rw [BitVec.toNat_add, BitVec.toNat_ofNat]
    omega
  | true =>
    simp only [if_true] at h ⊢
    rw [BitVec.toNat_sub, BitVec.toNat_ofNat]
    omega

theorem columnFrom_toNat {p : Params} {d : Descriptor} (hm : p.xposMask = 0x3FF#16) {x : Word} {n : Nat}
    (h : if d.xflip then x.toNat < 1024 ∧ n ≤ x.toNat else x.toNat + n < 1024) :
    (columnFrom p d x n).toNat = if d.xflip then x.toNat - n else x.toNat + n :=
  toNat_of_masked_steps (f := columnFrom p d x) (fun _ => rfl) (hm ▸ toNat_and_0x3FF) (by decide) h

section Placed
variable {flip : Bool} {x count n n' : Nat}
  (h : if flip then x < 512 ∧ count ≤ x + 1 else x + count ≤ 512) (hn : n < count)
include h hn

/-- The first `count` numbers from `x` on, in either direction, stay below 512. -/
theorem placed_lt : (if flip then x - n else x + n) < 512 := by
  cases flip <;> simp only [Bool.false_eq_true, if_false, if_true] at h ⊢ <;> omega

/-- No two of them are the same. -/
theorem placed_inj (hn' : n' < count)
    (e : (if flip then x - n else x + n) = if flip then x - n' else x + n') : n = n' := by
  cases flip <;> simp only [Bool.false_eq_true, if_false, if_true] at h e <;> omega

/-- They are reached from `x` without passing an edge. -/
theorem placed_no_wrap {bound : Nat} (hb : 512 ≤ bound) :
    if flip then x < bound ∧ n ≤ x else x + n < bound := by
  cases flip <;> simp only [Bool.false_eq_true, if_false, if_true] at h ⊢ <;> omega

end Placed

section Flat
variable {p : Params} {d : Descriptor} (hf : FlatRectangle p d)
include hf

theorem rectColumn_lt {c : Nat} (hc : c < drawnColumns d) : rectColumn d c < 512 := placed_lt hf.columns hc

theorem rectRow_lt {r : Nat} (hr : r < drawnRows d) : rectRow d r < 512 := placed_lt hf.rows hr

theorem rowFrom_toNat {r : Nat} (hr : r < drawnRows d) : (rowFrom p d r).toNat = rectRow d r :=
  toNat_of_masked_steps (f := rowFrom p d) (fun _ => rfl) (hf.masks.2 ▸ toNat_and_0x1FF) (by decide)
    (placed_no_wrap hf.rows hr (Nat.le_refl 512))

/-- Two pixels of a flat rectangle never share a cell. -/
theorem rectCell_inj {r r' c c' : Nat} (hr : r < drawnRows d) (hr' : r' < drawnRows d)
    (hc : c < drawnColumns d) (hc' : c' < drawnColumns d) (h : rectCell d r c = rectCell d r' c') :
    r = r' ∧ c = c' := by
  have hlt := rectColumn_lt hf hc
  have hlt' := rectColumn_lt hf hc'
  unfold rectCell at h
  exact ⟨placed_inj hf.rows hr hr' (show rectRow d r = rectRow d r' by omega),
    placed_inj hf.columns hc hc' (show rectColumn d c = rectColumn d c' by omega)⟩

/-- A flat rectangle lies inside video memory (rule R59). -/
theorem rectCell_mod {r c : Nat} (hr : r < drawnRows d) (hc : c < drawnColumns d) :
    rectCell d r c % p.vramCells = rectCell d r c := by
  have hrow := rectRow_lt hf hr
  have hcol := rectColumn_lt hf hc
  have hstore := hf.store
  exact Nat.mod_eq_of_lt (by unfold rectCell; omega)

end Flat

/-! ### The pixels of a flat rectangle -/

theorem mem_rowPixels {p : Params} {d : Descriptor} {row : Word} {columns : List (Word × BitAddr)}
    {x : Nat × BitAddr} :
    x ∈ rowPixels p d row columns ↔ d.topclip ≤ row.toNat ∧ row.toNat ≤ d.botclip ∧
      (d.clipdrop = true → ∀ y ∈ columns, inClipColumns d y.1) ∧
      ∃ y ∈ columns, inClipColumns d y.1 ∧ x = ((512 * row.toNat + y.1.toNat) % p.vramCells, y.2) := by
  unfold rowPixels
  split
  · next h =>
    obtain ⟨htop, hbot, hdrop⟩ := h
    simp only [List.all_eq_true, decide_eq_true_eq] at hdrop
    simp only [List.mem_map, List.mem_filter, decide_eq_true_eq]
    constructor
    · rintro ⟨y, ⟨hy, hin⟩, rfl⟩
      exact ⟨htop, hbot, hdrop, y, hy, hin, rfl⟩
    · rintro ⟨-, -, -, y, hy, hin, rfl⟩
      exact ⟨y, ⟨hy, hin⟩, rfl⟩
  · next h =>
    simp only [List.all_eq_true, decide_eq_true_eq] at h
    simp only [List.not_mem_nil, false_iff]
    rintro ⟨htop, hbot, hdrop, -⟩
    exact h ⟨htop, hbot, hdrop⟩

section FlatPicture
variable {p : Params} {d : Descriptor} (hf : FlatRectangle p d) {cols : Nat → List Nat}
  (hlt : ∀ r, ∀ c ∈ cols r, c < drawnColumns d) {column : Nat → Nat → Word}
  (hcol : ∀ r, ∀ c ∈ cols r, (column r c).toNat = rectColumn d c) {addr : Nat → Nat → BitAddr}
include hf hlt hcol

/-- The pixels of a flat rectangle whose row `r` draws the column numbers `cols r`, by their numbers. -/
theorem mem_transferPixels_flat {x : Nat × BitAddr} :
    x ∈ transferPixels p d (fun r => (cols r).map fun c => (column r c, addr r c)) ↔
      ∃ r < drawnRows d, ∃ c ∈ cols r, unclipped d (· ∈ cols r) r c ∧ x = (rectCell d r c, addr r c) := by
  simp only [transferPixels, List.mem_flatMap, List.mem_range]
  refine exists_congr fun r => and_congr_right fun hr => ?_
  have hin {c : Nat} (hc : c ∈ cols r) : inClipColumns d (column r c) ↔
      d.leftclip ≤ rectColumn d c ∧ rectColumn d c ≤ d.rightclip := by rw [inClipColumns, hcol r c hc]
  have hcell {c : Nat} (hc : c ∈ cols r) :
      (512 * rectRow d r + (column r c).toNat) % p.vramCells = rectCell d r c := by
    rw [hcol r c hc]
    exact rectCell_mod hf hr (hlt r c hc)
  rw [mem_rowPixels, rowFrom_toNat hf hr]
  simp only [List.forall_mem_map]
  constructor
  · rintro ⟨htop, hbot, hdrop, y, hy, hclip, rfl⟩
    obtain ⟨c, hc, rfl⟩ := List.mem_map.mp hy
    obtain ⟨hleft, hright⟩ := (hin hc).mp hclip
    exact ⟨c, hc, ⟨htop, hbot, hleft, hright, fun hd c' hc' => (hin hc').mp (hdrop hd c' hc')⟩,
      by rw [hcell hc]⟩
  · rintro ⟨c, hc, ⟨htop, hbot, hleft, hright, hdrop⟩, rfl⟩
    exact ⟨htop, hbot, fun hd c' hc' => (hin hc').mpr (hdrop hd c' hc'), _,
      List.mem_map_of_mem hc, (hin hc).mpr ⟨hleft, hright⟩, by rw [hcell hc]⟩

/-- The picture of a flat rectangle at a pixel's own cell (rule R146). -/
theorem pictureCell_flat (s : State) (v : Variant) (bpp : Nat) {r c : Nat} (hr : r < drawnRows d)
    (hc : c ∈ cols r) (hu : unclipped d (· ∈ cols r) r c) (old : Word) :
    pictureCell s v bpp (transferPixels p d fun r => (cols r).map fun c => (column r c, addr r c))
      (rectCell d r c) old = pixelCell s v (romBits s.params (addr r c) bpp) old := by
  refine pictureCell_of_mem s v bpp
    ((mem_transferPixels_flat hf hlt hcol).mpr ⟨r, hr, c, hc, hu, rfl⟩) (fun x hx hk => ?_) old
  obtain ⟨r', hr', c', hc', -, rfl⟩ := (mem_transferPixels_flat hf hlt hcol).mp hx
  obtain ⟨rfl, rfl⟩ := rectCell_inj hf hr' hr (hlt r' c' hc') (hlt r c hc) hk
  rfl

/-- The picture of a flat rectangle elsewhere. -/
theorem pictureCell_flat_of_ne (s : State) (v : Variant) (bpp : Nat) {k : Nat}
    (hk : ∀ r < drawnRows d, ∀ c ∈ cols r, unclipped d (· ∈ cols r) r c → k ≠ rectCell d r c) (old : Word) :
    pictureCell s v bpp (transferPixels p d fun r => (cols r).map fun c => (column r c, addr r c)) k old =
      old := by
  refine pictureCell_of_forall_ne s v bpp (fun x hx => ?_) old
  obtain ⟨r, hr, c, hc, hu, rfl⟩ := (mem_transferPixels_flat hf hlt hcol).mp hx
  exact (hk r hr c hc hu).symm

end FlatPicture

end Sys2Proof.Machine
end

section
/-! PROOFS. 42_blitter.md rule R142, 30_encoding.md rule R89: skip mode. Each source row is set up from its own
control byte and leads to the next. -/

namespace Sys2Proof.Machine

/-! ### The control byte (rule R89) -/

theorem romBits_eight_lt (p : Params) (o : BitAddr) : (romBits p o 8).toNat < 256 := by
  have h : (romBits p o 8).toNat ≤ (BitVec.ofNat 16 (2 ^ 8 - 1)).toNat := by
    rw [romBits, BitVec.toNat_and]
    exact Nat.and_le_right
  exact Nat.lt_succ_of_le h

theorem preSkip_eq (p : Params) (d : Descriptor) (o : BitAddr) : preSkip p d o = skippedBefore p d o := by
  rw [preSkip, skippedBefore, toNat_extractLsb', Nat.shiftLeft_eq, Nat.pow_zero, Nat.div_one]
  rfl

theorem postSkip_eq (p : Params) (d : Descriptor) (o : BitAddr) : postSkip p d o = skippedAfter p d o := by
  have h := romBits_eight_lt p o
  rw [postSkip, skippedAfter, toNat_extractLsb', Nat.shiftLeft_eq, Nat.mod_eq_of_lt (by omega)]
  rfl

section Skip
variable {p : Params} {d : Descriptor} (hs : d.skip = true)
include hs

/-- The set-up of a skip-mode row (rule R142). -/
theorem rowStart_skip (o : BitAddr) :
    rowStart p d o = {
      sx := stepColumn p d d.xpos (firstColumn p d o)
      ix := firstColumn p d o * d.xstep
      limit := (d.width - skippedAfter p d o) * 256
      cursor := o + 8#32 } := by
  rw [rowStart, if_pos hs, firstColumn, ← preSkip_eq, ← postSkip_eq, Nat.sub_mul]

theorem nextRow_skip (o : BitAddr) :
    nextRow p d o = o + 8#32 +
      BitVec.ofNat 32 ((d.width - skippedBefore p d o - skippedAfter p d o) * d.bpp) := by
  rw [nextRow, if_pos hs, preSkip_eq, postSkip_eq]

/-- Source rows that lead each to the next are those the row loop reads (rules R142, R149). -/
theorem nextRows_skip {base : Nat → BitAddr} (h0 : base 0 = d.offset)
    (hbase : ∀ n, base (n + 1) = base n + 8#32 + BitVec.ofNat 32
      ((d.width - skippedBefore p d (base n) - skippedAfter p d (base n)) * d.bpp)) (n : Nat) :
    nextRows p d n d.offset = base n := by
  induction n with
  | zero => exact h0.symm
  | succ n ih => rw [nextRows_add, ih, hbase, ← nextRow_skip hs]; rfl

end Skip

/-! ### The columns a skip-mode row draws (rules R142, R147) -/

/-- How many columns of `step` begin left of `limit`. -/
theorem lt_count_iff {step limit c : Nat} (hs : 1 ≤ step) :
    c < (limit + step - 1) / step ↔ c * step < limit := by
  rw [← Nat.succ_le_iff, Nat.le_div_iff_mul_le hs, Nat.succ_mul]
  omega

theorem lt_drawnColumns_of_drawsColumn {p : Params} {d : Descriptor} (hx : 1 ≤ d.xstep) {o : BitAddr}
    {c : Nat} (h : drawsColumn p d o c) : c < drawnColumns d := by
  have hle : (d.width - skippedAfter p d o) * 256 ≤ d.width * 256 :=
    Nat.mul_le_mul_right 256 (Nat.sub_le _ _)
  exact (lt_count_iff hx).mpr (Nat.lt_of_lt_of_le h.2 hle)

/-- The column numbers of a skip-mode row. -/
def skipColumns (p : Params) (d : Descriptor) (o : BitAddr) : List Nat :=
  (List.range (drawnColumns d)).filter fun c => drawsColumn p d o c

theorem mem_skipColumns {p : Params} {d : Descriptor} (hx : 1 ≤ d.xstep) {o : BitAddr} {c : Nat} :
    c ∈ skipColumns p d o ↔ drawsColumn p d o c := by
  rw [skipColumns, List.mem_filter, List.mem_range, decide_eq_true_eq]
  exact and_iff_right_of_imp (lt_drawnColumns_of_drawsColumn hx)

/-- They follow each other from the first column on, as often as the pixel loop runs. -/
theorem skipColumns_eq_map {p : Params} {d : Descriptor} (hx : 1 ≤ d.xstep) (o : BitAddr) :
    skipColumns p d o =
      (List.range (((d.width - skippedAfter p d o) * 256 - firstColumn p d o * d.xstep + d.xstep - 1) /
        d.xstep)).map (firstColumn p d o + ·) := by
  refine List.Pairwise.eq_of_mem_iff (r := (· < ·)) (List.pairwise_lt_range.filter _)
    (List.pairwise_lt_range.map _ fun _ _ h => Nat.add_lt_add_left h _) fun c => ?_
  rw [mem_skipColumns hx, List.mem_map]
  simp only [List.mem_range, lt_count_iff hx]
  constructor
  · rintro ⟨hfirst, hlimit⟩
    have hle := Nat.mul_le_mul_right d.xstep hfirst
    refine ⟨c - firstColumn p d o, ?_, by omega⟩
    rw [Nat.sub_mul]
    omega
  · rintro ⟨j, hj, rfl⟩
    refine ⟨Nat.le_add_right _ _, ?_⟩
    rw [Nat.add_mul]
    omega

/-- What the pixel loop visits in a skip-mode row is its drawn columns and their source pixels. -/
theorem rowColumns_skip {p : Params} {d : Descriptor} (hs : d.skip = true) (hx : 1 ≤ d.xstep) (o : BitAddr) :
    rowColumns p d (rowStart p d o) =
      (skipColumns p d o).map fun c => (skipColumn p d o c, skipPixelAt p d o c) := by
  rw [rowColumns, rowStart_skip hs, skipColumns_eq_map hx, List.map_map]
  refine List.map_congr_left fun j _ => ?_
  rw [Function.comp_apply, skipColumn, skipPixelAt, advanceCursor, Nat.add_sub_cancel_left, Nat.add_mul,
    Nat.mul_comm d.bpp]
  rfl

/-- In a flat rectangle the drawn columns of a skip-mode row stand at their column numbers. -/
theorem skipColumn_toNat {p : Params} {d : Descriptor} (hf : FlatRectangle p d) (hx : 1 ≤ d.xstep)
    {o : BitAddr} {c : Nat} (h : drawsColumn p d o c) : (skipColumn p d o c).toNat = rectColumn d c := by
  have hc := lt_drawnColumns_of_drawsColumn hx h
  have hfirst := h.1
  have hstart := toNat_masked_jump hf.masks.1
    (placed_no_wrap hf.columns (Nat.lt_of_le_of_lt hfirst hc) (bound := 1024) (by decide))
  have hend := placed_no_wrap hf.columns hc (bound := 1024) (by decide)
  rw [skipColumn, columnFrom_toNat hf.masks.1, rectColumn] <;> simp only [hstart]
  all_goals
    revert hend
    cases d.xflip <;> simp only [Bool.false_eq_true, if_false, if_true] <;> omega

/-- The picture of rules R89 and R142 is that of a transfer whose rows draw these columns. -/
theorem skipPixels_eq_transferPixels (p : Params) (d : Descriptor) (row : Nat → BitAddr) :
    skipPixels p d row = transferPixels p d fun r => (skipColumns p d (row r)).map fun c =>
      (skipColumn p d (row r) c, skipPixelAt p d (row r) c) := rfl

/-- Settles O29: it holds. The row loop reads the rows of `base`, each row's pixel loop its drawn columns; in a
flat rectangle each pixel has a cell of its own. -/
theorem drawnSkipRows : Obligations.DrawnSkipRows := by
  rintro f i m v s d base row hmode rfl hs hwin hw h0 hbase hrow
  have hx : 1 ≤ (buildDescriptor (bltWord m f) v s).xstep := stepOf_pos _
  have hy : 1 ≤ (buildDescriptor (bltWord m f) v s).ystep := stepOf_pos _
  generalize hd : buildDescriptor (bltWord m f) v s = d at *
  have he : EmitsAs s v d := hd ▸ emitsAs_buildDescriptor (bltWord m f) v s
  have hpicture (k : Nat) : (runBlit m v f s).vram.read k =
      pictureCell s v d.bpp (skipPixels s.params d row) k (s.vram.read k) := by
    rw [runBlit_vram, if_pos hwin, hd, draw_read he hx hy hw, skipPixels_eq_transferPixels]
    simp only [nextRows_skip hs h0 hbase, ← hrow, rowColumns_skip hs hx]
  refine ⟨runBlit m v f s, exec_of_mem_modeRows hmode s, hpicture, fun hf => ?_⟩
  have hdrawn (r : Nat) : (· ∈ skipColumns s.params d (row r)) = drawsColumn s.params d (row r) :=
    funext fun _ => propext (mem_skipColumns hx)
  have hlt (r c : Nat) (hc : c ∈ skipColumns s.params d (row r)) : c < drawnColumns d :=
    lt_drawnColumns_of_drawsColumn hx ((mem_skipColumns hx).mp hc)
  have hcol (r c : Nat) (hc : c ∈ skipColumns s.params d (row r)) :
      (skipColumn s.params d (row r) c).toNat = rectColumn d c :=
    skipColumn_toNat hf hx ((mem_skipColumns hx).mp hc)
  refine ⟨fun r hr c hc hu => ?_, fun k hk => ?_⟩
  · rw [hpicture, skipPixels_eq_transferPixels]
    exact pictureCell_flat hf hlt hcol s v d.bpp hr ((mem_skipColumns hx).mpr hc) (hdrawn r ▸ hu) _
  · rw [hpicture, skipPixels_eq_transferPixels]
    exact pictureCell_flat_of_ne hf hlt hcol s v d.bpp
      (fun r hr c hc hu => hk r hr c ((mem_skipColumns hx).mp hc) (hdrawn r ▸ hu)) _

end Sys2Proof.Machine
end

section
/-! PROOFS. 40_dma_registers.md rule R111: the whole frame of a write to a register other than `COMMAND`. -/

namespace Sys2Proof.Machine

/-- A register write and the answer of a write touch the register file and the answer, and nothing else. -/
theorem setOut_none_writeReg (s : State) (r : Fin 16) (v : Word) :
    setOut (writeReg s r v) none = { s with dma := s.dma.set r.val v, out := none } := rfl

/-- Settles O12: it holds. What is stored is the old value under the byte merge of rule R51. -/
theorem plainRegisterWrite : Obligations.PlainRegisterWrite := by
  intro s off data mask h
  exact ⟨_, mergesInto_merge16 _ data mask, by rw [exec_dmaWr_plain h, setOut_none_writeReg]⟩

end Sys2Proof.Machine
end

section
/-! PROOFS. 41_command.md rules R125 to R132: the stop, the completion event and the go command in both
completion modes, each with its whole frame; then what a draw depends on and when it changes nothing. -/

namespace Sys2Proof.Machine

/-! ### Operations one after the other (rule R63) -/

theorem runOps_cons_of_next {i : Instr} {s t : State} (h : exec i s = .next t) (is : List Instr) :
    runOps (i :: is) s = runOps is t := by
  simp only [runOps, h]

theorem runOps_append_of_next {is : List Instr} {s t : State} (h : runOps is s = .next t)
    (js : List Instr) : runOps (is ++ js) s = runOps js t := by
  induction is generalizing s with
  | nil =>
    obtain rfl := Host.Outcome.next.inj h
    rfl
  | cons i is ih =>
    cases hi : exec i s with
    | next u =>
      rw [runOps_cons_of_next hi] at h
      rw [List.cons_append, runOps_cons_of_next hi, ih h]
    | fault r => simp [runOps, hi] at h
    | refused r => simp [runOps, hi] at h

/-! ### Completion (rules R128, R130) -/

theorem done_fast {s : State} (hf : s.params.fastDma = true) :
    done s = { s with dma := s.dma.set 14 (s.dma[14] &&& 0x7FFF#16), irq := true } := by
  simp [done, writeReg, readReg, hf]

theorem done_timer {s : State} (hf : s.params.fastDma = false) :
    done s = { s with
      dma := s.dma.set 14 (s.dma[14] &&& 0x7FFF#16)
      irq := true
      timers := s.timers - 1 } := by
  simp [done, writeReg, readReg, hf]

theorem exec_dmaDone_enabled {s : State} (hf : s.params.fastDma = false) (ht : 0 < s.timers) :
    exec .dmaDone s = .next { s with
      dma := s.dma.set 14 (s.dma[14] &&& 0x7FFF#16)
      irq := true
      timers := s.timers - 1
      out := none } := by
  simp only [exec, execDmaDone, (completionEnabled_iff s).mpr ⟨hf, ht⟩, if_true, done_timer hf, setOut]

theorem exec_dmaDone_not_enabled {s : State} (h : s.params.fastDma = true ∨ s.timers = 0) :
    exec .dmaDone s = .next { s with out := none } := by
  have hdis : ¬ completionEnabled s = true := by
    rw [completionEnabled_iff]
    rintro ⟨hf, ht⟩
    obtain hfast | hnone := h
    · exact absurd hfast (ne_true_of_eq_false hf)
    · exact ht.ne' hnone
  simp only [exec, execDmaDone, if_neg hdis, setOut]

/-- Settles O16: it holds. Both are `Done()`, in timer mode with one in-flight completion less. -/
theorem completionEvent : Obligations.CompletionEvent := fun _ =>
  ⟨exec_dmaDone_enabled, fun hf n => by rw [scheduleCompletion_fast n hf, done_fast hf]⟩

/-! ### The stop (rule R126) -/

/-- The enabled bytes of the data and the others of the old value leave nothing free (rule R51). -/
theorem MergesInto.eq_merge16 {old data w : Word} {mask : ByteMask} (h : MergesInto old data mask w) :
    merge16 old data mask = w := by
  apply BitVec.eq_of_getLsbD_eq
  intro b hb
  rw [mergesInto_merge16 old data mask b hb, h b hb]

theorem commandWritten_stop {w : Word} (hw : w.getLsbD 15 = false) (s : State) :
    commandWritten w s = latchCommand w s := by
  rw [commandWritten, hw, if_neg Bool.false_ne_true]

theorem exec_dmaStop (r : BitVec 15) (s : State) :
    exec (.dmaStop r) s =
      .next { s with dma := s.dma.set 14 (r.setWidth 16), irq := false, out := none } := rfl

/-- A stop word has no busy bit for a completion to clear (rules R83, R130). -/
theorem setWidth_and_0x7FFF (r : BitVec 15) : r.setWidth 16 &&& 0x7FFF#16 = r.setWidth 16 := by
  apply BitVec.eq_of_toNat_eq
  rw [BitVec.toNat_and, BitVec.toNat_setWidth, Nat.mod_eq_of_lt (by omega)]
  exact (Nat.and_two_pow_sub_one_eq_mod r.toNat 15).trans (Nat.mod_eq_of_lt r.isLt)

/-- Settles O15: it holds. A stop is the latched word alone, so what was in flight is still enabled. -/
theorem stopDropsTheLine : Obligations.StopDropsTheLine := by
  refine ⟨fun s r => exec_dmaStop r s, fun s off data w mask hoff hmerge hw => ?_, fun s r hf ht => ?_⟩
  · rw [exec_dmaWr_command hoff, hmerge.eq_merge16, commandWritten_stop hw]
    rfl
  · rw [runOps_cons_of_next (exec_dmaStop r s),
      runOps_cons_of_next (exec_dmaDone_enabled (by exact hf) (by exact ht)), runOps]
    simp [setWidth_and_0x7FFF]

/-! ### The go command (rules R121, R128, R129) -/

/-- What a go command and its completion leave: the picture, the command word without its busy bit and the
line up (rules R121, R130). -/
def goSettled (m : BitVec 5) (v : Variant) (f : BltFields) (s : State) : State :=
  { s with
    dma := s.dma.set 14 (bltWord m f &&& 0x7FFF#16)
    irq := true
    vram := (runBlit m v f s).vram
    out := none }

section Settled
variable (m : BitVec 5) (v : Variant) (f : BltFields)

theorem busy_goSettled (s : State) : busy (goSettled m v f s) = false := by
  simp [busy, readReg, goSettled]

theorem runBlit_eq_goSettled {s : State} (hf : s.params.fastDma = true) :
    runBlit m v f s = goSettled m v f s := by
  rw [goSettled, runBlit_vram, runBlit_fast m v f hf]

theorem busy_runBlit_timer {s : State} (hf : s.params.fastDma = false) : busy (runBlit m v f s) = true := by
  rw [runBlit_timer m v f hf, busy, readReg]
  simp [bltWord_go]

theorem runBlit_timers {s : State} (hf : s.params.fastDma = false) :
    (runBlit m v f s).timers = s.timers + 1 := by
  rw [runBlit_timer m v f hf]

/-- The completion a go command scheduled settles it (rules R129, R130). -/
theorem exec_dmaDone_runBlit {s : State} (hf : s.params.fastDma = false) :
    exec .dmaDone (runBlit m v f s) = .next (goSettled m v f s) := by
  rw [goSettled, runBlit_vram, runBlit_timer m v f hf,
    exec_dmaDone_enabled (by exact hf) (by exact Nat.succ_pos _)]
  simp

/-- A completion call after the go command has settled finds nothing in flight (rules R130, R282; log 9). -/
theorem exec_dmaDone_goSettled {s : State} (h : s.params.fastDma = true ∨ s.timers = 0) :
    exec .dmaDone (goSettled m v f s) = .next (goSettled m v f s) :=
  exec_dmaDone_not_enabled h

end Settled

section Mode
variable {f : BltFields} {i : Instr} {m : BitVec 5} {v : Variant} {s : State}
variable (hmode : (i, m, v) ∈ modeRows f)
include hmode

theorem exec_go_fast (hf : s.params.fastDma = true) : exec i s = .next (goSettled m v f s) := by
  rw [exec_of_mem_modeRows hmode, runBlit_eq_goSettled m v f hf]

theorem runOps_go_dmaDone (hf : s.params.fastDma = false) :
    runOps [i, .dmaDone] s = .next (goSettled m v f s) := by
  rw [runOps_cons_of_next (exec_of_mem_modeRows hmode s), runOps_cons_of_next (exec_dmaDone_runBlit m v f hf),
    runOps]

end Mode

/-- Settles O18: it holds. The completion scheduled is `Done()` at once, over the drawn video memory. -/
theorem goInFastMode : Obligations.GoInFastMode := by
  intro f i m v s hmode hf
  rw [exec_of_mem_modeRows hmode, runBlit_fast m v f hf]

/-- Settles O19: it holds. The completion scheduled is one more in flight, over the drawn video memory. -/
theorem goInTimerMode : Obligations.GoInTimerMode := by
  intro f i m v s hmode hf
  rw [exec_of_mem_modeRows hmode, runBlit_timer m v f hf]

/-- Settles O17: it holds. A go command is settled by itself in fast mode, and by the first completion call in
timer mode; a call after that is not enabled. -/
theorem completionNotInFlight : Obligations.CompletionNotInFlight := by
  refine ⟨fun _ => exec_dmaDone_not_enabled, fun f i m v s hmode => ⟨fun hf => ?_, fun hf ht => ?_⟩⟩
  · rw [exec_go_fast hmode hf, runOps_cons_of_next (exec_go_fast hmode hf),
      runOps_cons_of_next (exec_dmaDone_goSettled m v f (.inl hf)), runOps]
  · have hsettled := runOps_go_dmaDone hmode hf
    rw [hsettled]
    calc runOps ([i, .dmaDone] ++ [.dmaDone]) s
      _ = runOps [.dmaDone] (goSettled m v f s) := runOps_append_of_next hsettled _
      _ = .next (goSettled m v f s) := runOps_cons_of_next (exec_dmaDone_goSettled m v f (.inr ht)) []

/-- Settles O25: it holds. In fast mode the go command settles by itself; in timer mode it stays busy with one
more completion in flight, and that completion settles it. -/
theorem everyGoCompletes : Obligations.EveryGoCompletes := by
  intro f i m v s hmode
  refine ⟨runBlit m v f s, exec_of_mem_modeRows hmode s, fun hf => ?_, fun hf => ?_⟩
  · rw [runBlit_eq_goSettled m v f hf]
    exact ⟨rfl, busy_goSettled m v f s⟩
  · exact ⟨busy_runBlit_timer m v f hf, runBlit_timers m v f hf, goSettled m v f s,
      exec_dmaDone_runBlit m v f hf, rfl, busy_goSettled m v f s, rfl⟩

end Sys2Proof.Machine
end

section
/-! PROOFS. 41_command.md rules R128, R129: a draw does not look at the completion mode. -/

namespace Sys2Proof.Machine

/-- The parameters `p` in completion mode `b` (rule R6). -/
def withFastDma (b : Bool) (p : Params) : Params := { p with fastDma := b }

section CompletionMode
variable (b : Bool) (p : Params) (d : Descriptor)

theorem pixelLoop_withFastDma (sy : Word) (W fuel : Nat) (sx : Word) (ix : Nat) (o : BitAddr)
    (vram : Memory) :
    pixelLoop (withFastDma b p) d sy W fuel sx ix o vram = pixelLoop p d sy W fuel sx ix o vram := by
  induction fuel generalizing sx ix o vram with
  | zero => rfl
  | succ fuel ih =>
    rw [pixelLoop, ih, pixelLoop]
    rfl

theorem visitedColumns_withFastDma (W fuel : Nat) (sx : Word) (ix : Nat) :
    visitedColumns (withFastDma b p) d W fuel sx ix = visitedColumns p d W fuel sx ix := by
  induction fuel generalizing sx ix with
  | zero => rfl
  | succ fuel ih =>
    rw [visitedColumns, ih, visitedColumns]
    rfl

theorem nextRows_withFastDma (n : Nat) (o : BitAddr) :
    nextRows (withFastDma b p) d n o = nextRows p d n o := by
  induction n generalizing o with
  | zero => rfl
  | succ n ih =>
    rw [nextRows, ih, nextRows]
    rfl

theorem drawRow_withFastDma (sy : Word) (offset : BitAddr) (vram : Memory) :
    drawRow (withFastDma b p) d sy offset vram = drawRow p d sy offset vram := by
  simp only [drawRow, rowVisible, visitedColumns_withFastDma, pixelLoop_withFastDma]
  rfl

theorem rowLoop_withFastDma (fuel : Nat) (sy : Word) (iy : Nat) (offset : BitAddr) (vram : Memory) :
    rowLoop (withFastDma b p) d fuel sy iy offset vram = rowLoop p d fuel sy iy offset vram := by
  induction fuel generalizing sy iy offset vram with
  | zero => rfl
  | succ fuel ih =>
    rw [rowLoop, ih, nextRows_withFastDma, drawRow_withFastDma, rowLoop]
    rfl

end CompletionMode

/-- A go command draws the same in either completion mode (rules R121, R140). -/
theorem runBlit_vram_withFastDma (b : Bool) (m : BitVec 5) (v : Variant) (f : BltFields) (s : State) :
    (runBlit m v f { s with params := withFastDma b s.params }).vram = (runBlit m v f s).vram := by
  rw [runBlit_vram, runBlit_vram, draw, rowLoop_withFastDma]
  rfl

/-- Settles O20: it holds. Both ways the go command is settled, and its picture does not depend on the mode. -/
theorem fastModeIsTimerModeSettled : Obligations.FastModeIsTimerModeSettled := by
  intro f i m v s hmode hf
  refine ⟨_, _, runOps_go_dmaDone hmode hf,
    exec_go_fast (s := { s with params := withFastDma true s.params }) hmode rfl, ?_⟩
  rw [goSettled, goSettled, runBlit_vram_withFastDma]

end Sys2Proof.Machine
end

section
/-! PROOFS. 41_command.md rule R125, 42_blitter.md rule R146: the go commands that draw nothing. -/

namespace Sys2Proof.Machine

theorem emitted_of_none_policies {c : Word} {v : Variant} {s : State} (hz : v.zero = .none)
    (hn : v.nonzero = .none) (px : Word) : emitted (buildDescriptor c v s) px = none := by
  apply emitted_of_none
  rw [pixelPolicy_buildDescriptor, hz, hn, ite_self]

section EmitsNothing
variable {d : Descriptor} (he : ∀ px, emitted d px = none) (p : Params)
include he

theorem plotPixel_of_emits_nothing (sy sx : Word) (o : BitAddr) (vram : Memory) :
    plotPixel p d sy sx o vram = vram := by
  rw [plotPixel, he]

theorem pixelLoop_of_emits_nothing (sy : Word) (W fuel : Nat) (sx : Word) (ix : Nat) (o : BitAddr)
    (vram : Memory) : pixelLoop p d sy W fuel sx ix o vram = vram := by
  induction fuel generalizing sx ix o vram with
  | zero => rfl
  | succ fuel ih => rw [pixelLoop, ih, plotPixel_of_emits_nothing he, ite_self, ite_self]

theorem drawRow_of_emits_nothing (sy : Word) (offset : BitAddr) (vram : Memory) :
    drawRow p d sy offset vram = vram := by
  rw [drawRow, pixelLoop_of_emits_nothing he, ite_self]

theorem rowLoop_of_emits_nothing (fuel : Nat) (sy : Word) (iy : Nat) (offset : BitAddr) (vram : Memory) :
    rowLoop p d fuel sy iy offset vram = vram := by
  induction fuel generalizing sy iy offset vram with
  | zero => rfl
  | succ fuel ih => rw [rowLoop, ih, drawRow_of_emits_nothing he, ite_self]

end EmitsNothing

/-- Settles O26: it holds. Outside the window there is no draw; a draw by two NONE policies emits nothing. -/
theorem nothingDrawnOutOfWindowOrByNone : Obligations.NothingDrawnOutOfWindowOrByNone := by
  intro f i m v s hmode h
  refine ⟨runBlit m v f s, exec_of_mem_modeRows hmode s, ?_⟩
  rw [runBlit_vram]
  obtain hout | ⟨hz, hn⟩ := h
  · exact if_neg (mt of_decide_eq_true hout.not_gt)
  · rw [draw, rowLoop_of_emits_nothing (emitted_of_none_policies hz hn), ite_self]

end Sys2Proof.Machine
end

section
/-! PROOFS. 42_blitter.md rules R141, R147 to R151: a transfer without skip mode, and one of no pixels. -/

namespace Sys2Proof.Machine

/-! ### Without skip mode (rules R147, R149) -/

/-- The set-up of a row without skip mode (rule R141 (a)). -/
theorem rowStart_unskipped {d : Descriptor} (hs : d.skip = false) (p : Params) (o : BitAddr) :
    rowStart p d o = { sx := d.xpos, ix := 0, limit := d.width * 256, cursor := o } := by
  rw [rowStart, if_neg (ne_true_of_eq_false hs)]

/-- What the pixel loop visits in destination row `r` without skip mode: all its columns, each with a source
pixel of source row `r * ystep / 256`. -/
theorem rowColumns_unskipped {d : Descriptor} (hs : d.skip = false) (p : Params) (r : Nat) :
    rowColumns p d (rowStart p d (nextRows p d (r * d.ystep / 256) d.offset)) =
      (List.range (drawnColumns d)).map fun c => (columnFrom p d d.xpos c,
        d.offset + BitVec.ofNat 32 ((r * d.ystep / 256 * d.width + c * d.xstep / 256) * d.bpp)) := by
  rw [rowStart_unskipped hs, nextRows_unskipped p hs]
  refine List.map_congr_left fun c _ => ?_
  rw [advanceCursor, Nat.zero_add, Nat.zero_div, Nat.sub_zero, BitVec.add_assoc, ← BitVec.ofNat_add,
    ← Nat.mul_assoc, Nat.mul_comm d.bpp, ← Nat.add_mul]

/-- The picture of rules R147 and R149 is that of a transfer whose rows draw all their columns. -/
theorem rectPixels_eq_transferPixels (p : Params) (d : Descriptor) :
    rectPixels p d = transferPixels p d fun r => (List.range (drawnColumns d)).map fun c =>
      (columnFrom p d d.xpos c,
        d.offset + BitVec.ofNat 32 ((r * d.ystep / 256 * d.width + c * d.xstep / 256) * d.bpp)) := rfl

/-- The columns of a flat rectangle stand at their column numbers. -/
theorem columnFrom_xpos_toNat {p : Params} {d : Descriptor} (hf : FlatRectangle p d) {c : Nat}
    (hc : c < drawnColumns d) : (columnFrom p d d.xpos c).toNat = rectColumn d c :=
  columnFrom_toNat hf.masks.1 (placed_no_wrap hf.columns hc (by decide))

/-- Settles O28: it holds. The row loop reads source row `r * ystep / 256`, each row's pixel loop all its
columns; in a flat rectangle each pixel has a cell of its own. -/
theorem drawnRectangle : Obligations.DrawnRectangle := by
  rintro f i m v s d hmode rfl hs hwin hw
  have hx : 1 ≤ (buildDescriptor (bltWord m f) v s).xstep := stepOf_pos _
  have hy : 1 ≤ (buildDescriptor (bltWord m f) v s).ystep := stepOf_pos _
  generalize hd : buildDescriptor (bltWord m f) v s = d at *
  have he : EmitsAs s v d := hd ▸ emitsAs_buildDescriptor (bltWord m f) v s
  have hpicture (k : Nat) : (runBlit m v f s).vram.read k =
      pictureCell s v d.bpp (rectPixels s.params d) k (s.vram.read k) := by
    rw [runBlit_vram, if_pos hwin, hd, draw_read he hx hy hw, rectPixels_eq_transferPixels]
    simp only [rowColumns_unskipped hs]
  refine ⟨runBlit m v f s, exec_of_mem_modeRows hmode s, hpicture, fun hf => ?_⟩
  have hdrawn : (· ∈ List.range (drawnColumns d)) = (· < drawnColumns d) :=
    funext fun _ => propext List.mem_range
  have hlt (_r c : Nat) (hc : c ∈ List.range (drawnColumns d)) : c < drawnColumns d := List.mem_range.mp hc
  have hcol (r c : Nat) (hc : c ∈ List.range (drawnColumns d)) :
      (columnFrom s.params d d.xpos c).toNat = rectColumn d c := columnFrom_xpos_toNat hf (hlt r c hc)
  refine ⟨fun r hr c hc hu => ?_, fun k hk => ?_⟩
  · rw [hpicture, rectPixels_eq_transferPixels]
    exact pictureCell_flat hf hlt hcol s v d.bpp hr (List.mem_range.mpr hc) (hdrawn ▸ hu) _
  · rw [hpicture, rectPixels_eq_transferPixels]
    exact pictureCell_flat_of_ne hf hlt hcol s v d.bpp
      (fun r hr c hc hu => hk r hr c (hlt r c hc) (hdrawn ▸ hu)) _

/-! ### Transfers of no pixels (rule R151) -/

theorem draw_of_height_zero {d : Descriptor} (h : d.height = 0) (p : Params) (vram : Memory) :
    draw p d vram = vram := by
  rw [draw, h, Nat.zero_mul, rowLoop]

/-- A row of no width ends before its first pixel, in skip mode too: its limit is cut at 0. -/
theorem rowStart_limit_of_width_zero {d : Descriptor} (h : d.width = 0) (p : Params) (o : BitAddr) :
    (rowStart p d o).limit = 0 := by
  unfold rowStart
  split <;> simp [h]

theorem drawRow_of_width_zero {d : Descriptor} (h : d.width = 0) (p : Params) (sy : Word)
    (offset : BitAddr) (vram : Memory) : drawRow p d sy offset vram = vram := by
  rw [drawRow, rowStart_limit_of_width_zero h, pixelLoop, ite_self]

theorem draw_of_width_zero {d : Descriptor} (hy : 1 ≤ d.ystep) (h : d.width = 0) (p : Params)
    (vram : Memory) : draw p d vram = vram := by
  rw [draw, rowLoop_eq_foldl hy d.ypos 0 d.offset vram (Nat.sub_le _ _)]
  simp only [drawRow_of_width_zero h, List.foldl_fixed]

/-- Settles O24: it holds. Without rows the row loop does not run; without columns no row's pixel loop does.
The completion is that of every go command (rule R131). -/
theorem zeroSizeDrawsNothing : Obligations.ZeroSizeDrawsNothing := by
  intro f i m v s hmode hzero
  obtain ⟨t, ht, hfast, htimer⟩ := everyGoCompletes f i m v s hmode
  refine ⟨t, ht, ?_, hfast, fun hf => (htimer hf).2.1⟩
  have hdraw : draw s.params (buildDescriptor (bltWord m f) v s) s.vram = s.vram := by
    obtain hwidth | hheight := hzero
    · exact draw_of_width_zero (stepOf_pos _) ((toNat_and_0x3FF s.dma[4]).trans hwidth) s.params s.vram
    · exact draw_of_height_zero ((toNat_and_0x3FF s.dma[5]).trans hheight) s.params s.vram
  obtain rfl := Host.Outcome.next.inj (ht.symm.trans (exec_of_mem_modeRows hmode s))
  rw [runBlit_vram, hdraw, ite_self]

end Sys2Proof.Machine
end

section
/-! PROOFS. 43_video_memory.md rules R200 to R208: the control write, the host's access to video memory and the
palette write. A host access is two byte lanes, each between a byte of the word and a cell. -/

namespace Sys2Proof.Machine

/-! ### The board families (rule R2) -/

theorem isYZ_of_YZ {p : Params} (h : p.family = .Y ∨ p.family = .Z) : isYZ p = true := by
  obtain h | h := h <;> simp [isYZ, h]

theorem isYZ_of_TWolf {p : Params} (h : p.family = .T ∨ p.family = .Wolf) : isYZ p = false := by
  obtain h | h := h <;> simp [isYZ, h]

theorem family_cases (p : Params) :
    (p.family = .T ∨ p.family = .Wolf) ∨ (p.family = .Y ∨ p.family = .Z) := by
  cases p.family <;> simp

/-! ### The control write (rules R18, R200) -/

theorem exec_ctrlWr (data : Word) (mask : ByteMask) (s : State) :
    exec (.ctrlWr data mask) s = .next (setOut (writeControl s (merge16 s.ctrl data mask)) none) := rfl

theorem pageOf_eq (p : Params) (ctrl : Word) : pageOf p ctrl = ctrl.toNat / 64 % 4 * p.cmosPageWords := by
  rw [pageOf, toNat_extractLsb']
  rfl

theorem writeControl_YZ {s : State} (h : isYZ s.params = true) (c : Word) :
    writeControl s c = { s with ctrl := c, bankSelect := !c.getLsbD 5, autoeraseEn := !c.getLsbD 4,
                                cmosPage := c.toNat / 64 % 4 * s.params.cmosPageWords } := by
  simp only [writeControl, bankOf, autoeraseOf, pageOf_eq, h, if_true]

theorem writeControl_TWolf {s : State} (h : isYZ s.params = false) (c : Word) :
    writeControl s c = { s with ctrl := c, bankSelect := c.getLsbD 5, autoeraseEn := !c.getLsbD 4 } := by
  simp [writeControl, bankOf, autoeraseOf, h]

/-- Settles O31: it holds. The word stored is the merge of the enabled bytes, and the family fixes the sense of
the bank bit and whether there is a page. -/
theorem controlWrite : Obligations.ControlWrite := by
  intro s data mask
  refine ⟨merge16 s.ctrl data mask, mergesInto_merge16 s.ctrl data mask, fun h => ?_, fun h => ?_⟩
  · rw [exec_ctrlWr, writeControl_YZ (isYZ_of_YZ h)]
    rfl
  · rw [exec_ctrlWr, writeControl_TWolf (isYZ_of_TWolf h)]
    rfl

/-! ### Words and their bytes (rule R52) -/

@[simp] theorem lowByte_setWidth (w : Word) : (lowByte w).setWidth 16 = w &&& 0xFF#16 := by
  apply BitVec.eq_of_toNat_eq
  have hmask : (w &&& 0xFF#16).toNat = w.toNat % 256 := Nat.and_two_pow_sub_one_eq_mod w.toNat 8
  rw [hmask, lowByte, BitVec.toNat_setWidth, toNat_extractLsb']
  omega

@[simp] theorem highByte_setWidth (w : Word) : (highByte w).setWidth 16 = w >>> 8 := by
  apply BitVec.eq_of_toNat_eq
  rw [highByte, BitVec.toNat_setWidth, toNat_extractLsb', BitVec.toNat_ushiftRight, Nat.shiftRight_eq_div_pow]
  omega

@[simp] theorem lowByte_pairBytes (hi lo : Byte) : lowByte (pairBytes hi lo) = lo := by
  ext i hi
  simp [lowByte, ← BitVec.getLsbD_eq_getElem, pairBytes_getLsbD, hi]

@[simp] theorem highByte_pairBytes (hi lo : Byte) : highByte (pairBytes hi lo) = hi := by
  ext i h
  simp [highByte, ← BitVec.getLsbD_eq_getElem, pairBytes_getLsbD, h]

theorem pairBytes_eq_or (hi lo : Byte) : pairBytes hi lo = lo.setWidth 16 ||| (hi.setWidth 16 <<< 8) :=
  BitVec.or_comm _ _

theorem ushiftRight_shiftLeft_eight (w : Word) : (w >>> 8) <<< 8 = w &&& 0xFF00#16 :=
  BitVec.shiftLeft_ushiftRight

theorem pairBytes_highByte_lowByte (w : Word) : pairBytes (highByte w) (lowByte w) = w := by
  rw [pairBytes_eq_or, lowByte_setWidth, highByte_setWidth, ushiftRight_shiftLeft_eight,
    ← BitVec.and_or_distrib_left]
  exact BitVec.and_allOnes

/-! ### The lookup tables, by family (rules R205, R206) -/

theorem storedCell_TWolf {p : Params} (h : isYZ p = false) : storedCell p = id := by
  funext v
  simp [storedCell, h]

theorem storedCell_YZ {p : Params} (h : isYZ p = true) : storedCell p = forwardLookup p := by
  funext v
  rw [storedCell, if_pos h]

theorem logicalCell_TWolf {p : Params} (h : isYZ p = false) : logicalCell p = id := by
  funext v
  simp [logicalCell, h]

theorem logicalCell_YZ {p : Params} (h : isYZ p = true) : logicalCell p = reverseLookup p := by
  funext v
  rw [logicalCell, if_pos h]

theorem eq_storedCell {p : Params} {store : Word → Word}
    (hTWolf : p.family = .T ∨ p.family = .Wolf → store = id)
    (hYZ : p.family = .Y ∨ p.family = .Z → store = forwardLookup p) : store = storedCell p := by
  obtain h | h := family_cases p
  · rw [hTWolf h, storedCell_TWolf (isYZ_of_TWolf h)]
  · rw [hYZ h, storedCell_YZ (isYZ_of_YZ h)]

theorem eq_logicalCell {p : Params} {load : Word → Word}
    (hTWolf : p.family = .T ∨ p.family = .Wolf → load = id)
    (hYZ : p.family = .Y ∨ p.family = .Z → load = reverseLookup p) : load = logicalCell p := by
  obtain h | h := family_cases p
  · rw [hTWolf h, logicalCell_TWolf (isYZ_of_TWolf h)]
  · rw [hYZ h, logicalCell_YZ (isYZ_of_YZ h)]

/-- What a cell stores is read back, through the tables or without them (rule R205). -/
theorem logicalCell_storedCell {p : Params} (h : lookupsInverse p = true) (v : Word) :
    logicalCell p (storedCell p v) = v := by
  cases hyz : isYZ p with
  | true => rw [storedCell_YZ hyz, logicalCell_YZ hyz, reverse_forward h]
  | false => rw [storedCell_TWolf hyz, logicalCell_TWolf hyz, id, id]

/-! ### The host's access to video memory (rules R201 to R207) -/

theorem exec_vramRd (off : Nat) (s : State) :
    exec (.vramRd off) s = .next (answer s
      (pairBytes (peekCell s (oddCell s.params off)) (peekCell s (evenCell s.params off)))) := rfl

/-- A host write, cell by cell: the lanes do not meet where video memory holds two cells (rules R201, R206). -/
theorem exec_vramWr_cells {s : State} (hw : s.vram.wf = true) (hcells : 2 ≤ s.params.vramCells) (off : Nat)
    (data : Word) (mask : ByteMask) :
    ∃ vram, exec (.vramWr off data mask) s = .next { s with vram := vram, out := none } ∧
      ∀ k, vram.read k =
        if mask.lo = true ∧ k = evenCell s.params off then
          hostCell s.params s.bankSelect (s.vram.read k) (lowByte (readReg s paletteReg)) (lowByte data)
        else if mask.hi = true ∧ k = oddCell s.params off then
          hostCell s.params s.bankSelect (s.vram.read k) (highByte (readReg s paletteReg)) (highByte data)
        else s.vram.read k := by
  have hne := evenCell_ne_oddCell hcells off
  refine ⟨_, rfl, fun k => ?_⟩
  rw [pokeCell_read s _ _ _ _ (pokeCell_wf s _ _ _ _ hw), pokeCell_read s _ _ _ _ hw,
    pokeCell_read s _ _ _ _ hw]
  by_cases heven : k = evenCell s.params off
  · simp only [heven, hne, and_false, and_true, if_false]
  · by_cases hodd : k = oddCell s.params off
    · simp only [hodd, hne.symm, and_false, and_true, if_false]
    · simp only [heven, hodd, and_false, if_false]

/-- Settles O32: it holds. Each lane's pair of bytes is the word the rules write out. -/
theorem videoMemoryWrite : Obligations.VideoMemoryWrite := by
  intro s off data mask store load hw hcells hTWolf hYZ
  obtain rfl : store = storedCell s.params := eq_storedCell (fun h => (hTWolf h).1) (fun h => (hYZ h).1)
  obtain rfl : load = logicalCell s.params := eq_logicalCell (fun h => (hTWolf h).2) (fun h => (hYZ h).2)
  obtain ⟨vram, hexec, hread⟩ := exec_vramWr_cells hw hcells off data mask
  refine ⟨vram, hexec, fun k => (hread k).trans ?_⟩
  simp only [hostCell, pairBytes_eq_or, lowByte_setWidth, highByte_setWidth, ushiftRight_shiftLeft_eight]
  rfl

theorem peekCell_eq (s : State) (k : Nat) :
    peekCell s k = if s.bankSelect then lowByte (logicalCell s.params (s.vram.read k))
      else highByte (logicalCell s.params (s.vram.read k)) := rfl

/-- Settles O33: it holds. The answer is the pair of the halves the bank select chooses. -/
theorem videoMemoryRead : Obligations.VideoMemoryRead := by
  intro s off load even odd hTWolf hYZ heven hodd
  obtain rfl : load = logicalCell s.params := eq_logicalCell hTWolf hYZ
  rw [exec_vramRd, peekCell_eq, peekCell_eq, evenCell, oddCell, ← heven, ← hodd]
  cases hb : s.bankSelect <;>
    simp [answer, setOut, pairBytes_eq_or, ushiftRight_shiftLeft_eight, hb]

/-- A byte written to a cell is what a read in the same bank finds there (rule R203). -/
theorem peekCell_of_read_hostCell {s : State} (hl : lookupsInverse s.params = true) {k : Nat} {cell : Word}
    {palByte b : Byte} (hk : s.vram.read k = hostCell s.params s.bankSelect cell palByte b) :
    peekCell s k = b := by
  rw [peekCell_eq, hk, hostCell, logicalCell_storedCell hl]
  cases s.bankSelect <;> simp

/-- Settles O34: it holds. Each byte is read back from the cell it was written to. -/
theorem videoMemoryRoundTrip : Obligations.VideoMemoryRoundTrip := by
  intro s off data hp hw hcells
  obtain ⟨-, -, -, -, hl, -⟩ := (Params.wf_iff _).mp hp
  obtain ⟨vram, hexec, hread⟩ := exec_vramWr_cells hw hcells off data ⟨true, true⟩
  let t : State := { s with vram := vram, out := none }
  have heven : peekCell t (evenCell s.params off) = lowByte data :=
    peekCell_of_read_hostCell (s := t) hl ((hread _).trans (if_pos ⟨rfl, rfl⟩))
  have hodd : peekCell t (oddCell s.params off) = highByte data :=
    peekCell_of_read_hostCell (s := t) hl ((hread _).trans
      ((if_neg fun h => evenCell_ne_oddCell hcells off h.2.symm).trans (if_pos ⟨rfl, rfl⟩)))
  refine ⟨answer t data, ?_, rfl⟩
  calc runOps [.vramWr off data ⟨true, true⟩, .vramRd off] s
    _ = runOps [.vramRd off] t := runOps_cons_of_next hexec _
    _ = .next (answer t (pairBytes (peekCell t (oddCell s.params off)) (peekCell t (evenCell s.params off)))) :=
      runOps_cons_of_next (exec_vramRd off t) []
    _ = .next (answer t data) := by rw [heven, hodd, pairBytes_highByte_lowByte]

/-! ### The palette write (rule R208) -/

theorem exec_palWr (off : Nat) (data : Word) (s : State) :
    exec (.palWr off data) s = .next (setOut { s with palram := s.palram.write (paletteEntry s.params off) data }
      (some (.colour off (exp5 (data.extractLsb' 10 5)) (exp5 (data.extractLsb' 5 5))
        (exp5 (data.extractLsb' 0 5))))) := rfl

/-- `exp5` as arithmetic: the 5 bits on top, their high 3 bits below (rule R208). -/
theorem exp5_toNat (c : BitVec 5) : (exp5 c).toNat = 8 * c.toNat + c.toNat / 4 := by
  revert c
  decide

/-- Settles O35: it holds. One entry of the mirror is written, and each component is its field expanded. -/
theorem paletteWrite : Obligations.PaletteWrite := by
  intro s off data hw
  refine ⟨_, _, _, _, exec_palWr off data s, fun k => Memory.read_write hw _ k data,
    ⟨_, rfl, ?_⟩, ⟨_, rfl, ?_⟩, ⟨_, rfl, ?_⟩⟩
  all_goals
    rw [exp5_toNat, toNat_extractLsb']
    simp

end Sys2Proof.Machine
end

section
/-! PROOFS. 43_video_memory.md rules R224, R225: the shift-register port. -/

namespace Sys2Proof.Machine

theorem exec_srToHost (addr : Nat) (s : State) :
    exec (.srToHost addr) s = .next (setOut s (some (.buffer ((List.range 1024).map fun i =>
      s.vram.read ((shiftCell s.params addr + i) % s.params.vramCells))))) := rfl

theorem exec_srFromHost (addr : Nat) (buffer : ShiftBuffer) (s : State) :
    exec (.srFromHost addr buffer) s = .next (setOut { s with
      vram := Memory.writeWrapped s.params.vramCells s.vram (shiftCell s.params addr) buffer.toList } none) := rfl

theorem shiftCell_add_mod (p : Params) (addr j : Nat) :
    (shiftCell p addr + j) % p.vramCells = (addr / 8 + j) % p.vramCells :=
  Nat.mod_add_mod _ _ _

/-- Fewer than `n` steps from a cell never lead around to it. -/
theorem add_mod_ne {n i : Nat} (hi : 0 < i) (hn : i < n) (k : Nat) : (k + i) % n ≠ k % n := by
  intro h
  have hmod : i ≡ 0 [MOD n] := Nat.ModEq.add_left_cancel' k h
  rw [Nat.ModEq, Nat.mod_eq_of_lt hn, Nat.zero_mod] at hmod
  omega

/-- No more words than cells: each word is found in the cell it was written to. -/
theorem Memory.read_writeWrapped {n : Nat} {m : Memory} (hw : m.wf = true) (k : Nat) (ws : List Word)
    (hn : ws.length ≤ n) {i : Nat} (hi : i < ws.length) :
    (Memory.writeWrapped n m k ws).read ((k + i) % n) = ws[i] := by
  induction ws generalizing m k i with
  | nil => simp at hi
  | cons w ws ih =>
    rw [List.length_cons] at hn hi
    cases i with
    | zero =>
      have hlater : ∀ j < ws.length, (k + 0) % n ≠ (k + 1 + j) % n := fun j hj => by
        rw [Nat.add_assoc]
        exact (add_mod_ne (by omega) (by omega) k).symm
      rw [Memory.writeWrapped, Memory.read_writeWrapped_ne n _ _ ws hlater, Memory.read_write hw]
      simp
    | succ i =>
      have hnext : k + (i + 1) = k + 1 + i := by omega
      rw [Memory.writeWrapped, hnext, ih (Memory.wf_write hw _ _) (k + 1) (by omega) (by omega),
        List.getElem_cons_succ]

/-- Settles O41: it holds. The cells of a transfer are consecutive, reduced modulo the size of video memory,
and different where that holds all 1024. -/
theorem shiftRegisterTransfers : Obligations.ShiftRegisterTransfers := by
  intro s addr buffer
  refine ⟨⟨_, exec_srToHost addr s, by simp, fun j hj => ?_⟩, fun hw hcells =>
    ⟨_, exec_srFromHost addr buffer s, fun j => ?_, fun k hk => ?_⟩⟩
  · simp [hj, shiftCell_add_mod]
  · rw [← shiftCell_add_mod]
    exact Memory.read_writeWrapped hw _ buffer.toList (by simpa using hcells) (by simp)
  · refine Memory.read_writeWrapped_ne _ _ _ _ fun i hi => ?_
    rw [shiftCell_add_mod]
    exact hk i (by simpa using hi)

end Sys2Proof.Machine
end

section
/-! PROOFS. 43_video_memory.md rules R210 to R219: the raster compositor. A call copies the rows of some lines
into the shadow buffer and erases the rows of a list of lines; the end of the frame erases a second list. -/

namespace Sys2Proof.Machine

/-! ### The calls, by family (rules R210, R219) -/

section Calls
variable {s : State} (line : Int) (pageflip : Bool)

theorem exec_vidLine_YZ (h : isYZ s.params = true) : exec (.vidLine line pageflip) s =
    .next (setOut (composeTo (clampLine s.params line) pageflip s) none) := by
  simp [exec, execVidLine, h]

theorem exec_vidEof_YZ (h : isYZ s.params = true) : exec (.vidEof pageflip) s =
    .next (setOut (endFrame pageflip s) none) := by
  simp [exec, execVidEof, h]

theorem exec_vidLine_TWolf (h : isYZ s.params = false) : exec (.vidLine line pageflip) s =
    .next (setOut s none) := by
  simp [exec, execVidLine, h]

theorem exec_vidEof_TWolf (h : isYZ s.params = false) : exec (.vidEof pageflip) s = .next (setOut s none) := by
  simp [exec, execVidEof, h]

end Calls

/-- Settles O36: it holds. Neither call looks at anything but the family there. -/
theorem compositorIdleOnTWolf : Obligations.CompositorIdleOnTWolf := fun _ line pageflip h =>
  ⟨exec_vidLine_TWolf line pageflip (isYZ_of_TWolf h), exec_vidEof_TWolf pageflip (isYZ_of_TWolf h)⟩

/-- The clamped line in arithmetic (rule R60). -/
theorem clampLine_eq {p : Params} (h : p.visibleFirst ≤ p.visibleLast) (line : Int) {e : Nat}
    (he : (e : Int) = max (p.visibleFirst : Int) (min line (p.visibleLast : Int))) : clampLine p line = e := by
  unfold clampLine
  split_ifs <;> omega

theorem le_clampLine {p : Params} {l : Nat} (hl : visibleLine p l) {line : Int} (h : (l : Int) ≤ line) :
    l ≤ clampLine p line := by
  obtain ⟨hfirst, hlast⟩ := hl
  unfold clampLine
  split_ifs <;> omega

/-! ### What is copied (rule R211) -/

theorem composeTo_shadow (e : Nat) (pageflip : Bool) (s : State) :
    (composeTo e pageflip s).shadow = (partialUpdate e s).shadow := rfl

theorem endFrame_shadow (pageflip : Bool) (s : State) :
    (endFrame pageflip s).shadow = (partialUpdate s.params.visibleLast s).shadow := rfl

theorem partialUpdate_nextLine (e : Nat) (s : State) :
    (partialUpdate e s).nextLine = if s.nextLine ≤ e then e + 1 else s.nextLine := rfl

section Copied
variable {s : State} (hw : s.shadow.wf = true) {e k : Nat}
include hw

theorem partialUpdate_shadow_wf : (partialUpdate e s).shadow.wf = true :=
  Memory.wf_foldl _ (fun _ _ h => Memory.wf_foldl _ (fun _ _ h => Memory.wf_write h _ _) _ h) _ hw

/-- A row that is copied reads as live video memory. -/
theorem partialUpdate_read_of_inRow {l : Nat} (hl : s.nextLine ≤ l) (he : l ≤ e) (hk : inRowOf s.params l k) :
    (partialUpdate e s).shadow.read k = s.vram.read k := by
  rw [partialUpdate_shadow_read e hw, if_pos ⟨l, mem_linesFromTo.mpr ⟨hl, he⟩, hk⟩]

/-- A cell of no row that is copied keeps what it held. -/
theorem partialUpdate_read_of_not_inRow (hk : ∀ l, s.nextLine ≤ l → l ≤ e → ¬ inRowOf s.params l k) :
    (partialUpdate e s).shadow.read k = s.shadow.read k := by
  rw [partialUpdate_shadow_read e hw, if_neg]
  rintro ⟨l, hl, hrow⟩
  obtain ⟨hge, hle⟩ := mem_linesFromTo.mp hl
  exact hk l hge hle hrow

end Copied

/-- Settles O37: it holds. The autoerase of the call leaves the shadow buffer alone, so it is as the partial
update leaves it. -/
theorem lineCopiesIntoShadow : Obligations.LineCopiesIntoShadow := by
  intro s line pageflip e hYZ hw he hvis
  refine ⟨_, exec_vidLine_YZ line pageflip (isYZ_of_YZ hYZ), ?_⟩
  rw [clampLine_eq hvis line he, setOut_shadow, composeTo_shadow]
  exact ⟨fun l k hl hle hk => partialUpdate_read_of_inRow hw hl hle hk,
    fun k hk => partialUpdate_read_of_not_inRow hw hk, rfl, rfl⟩

/-! ### What is erased (rules R214, R215, R218) -/

/-- The lines a raster call erases at once: none in page-flip mode (rules R214, R215). -/
def erasedLines (e : Nat) (pageflip : Bool) (s : State) : List Nat :=
  if s.autoeraseEn && !pageflip then linesFromTo s.eraseNext e else []

theorem mem_erasedLines {e : Nat} {pageflip : Bool} {s : State} {l : Nat} :
    l ∈ erasedLines e pageflip s ↔
      s.autoeraseEn = true ∧ pageflip = false ∧ s.eraseNext ≤ l ∧ l ≤ e := by
  unfold erasedLines
  split <;> simp_all [mem_linesFromTo]

theorem erasedLines_eq_nil {e : Nat} {pageflip : Bool} {s : State}
    (h : ¬ (s.autoeraseEn = true ∧ pageflip = false)) : erasedLines e pageflip s = [] := by
  refine List.eq_nil_iff_forall_not_mem.mpr fun l hl => ?_
  obtain ⟨hon, hflip, -⟩ := mem_erasedLines.mp hl
  exact h ⟨hon, hflip⟩

theorem composeTo_vram (e : Nat) (pageflip : Bool) (s : State) :
    (composeTo e pageflip s).vram = (erasedLines e pageflip s).foldl (eraseLine s.params) s.vram := by
  rw [erasedLines, apply_ite (List.foldl (eraseLine s.params) s.vram)]
  rfl

/-- The lines recorded for the end of the frame after a raster call (rule R215). -/
theorem mem_composeTo_deferred {e : Nat} {pageflip : Bool} {s : State} (h : s.Inv) (l : Nat) :
    l ∈ (composeTo e pageflip s).eraseDeferred ↔ l ∈ s.eraseDeferred ∨
      (s.autoeraseEn = true ∧ pageflip = true ∧ s.eraseNext ≤ l ∧ l ≤ e) :=
  (autoErase_deferred e pageflip (s := partialUpdate e s) h.deferred_sorted).2 l

/-- Every line the end of the frame erases: at once, then those on record (rule R218). -/
def flushedLines (pageflip : Bool) (s : State) : List Nat :=
  erasedLines s.params.visibleLast pageflip s ++ (composeTo s.params.visibleLast pageflip s).eraseDeferred

/-- The display mode decides when a line is erased, not whether. -/
theorem mem_flushedLines {pageflip : Bool} {s : State} (h : s.Inv) (l : Nat) :
    l ∈ flushedLines pageflip s ↔ l ∈ s.eraseDeferred ∨
      (s.autoeraseEn = true ∧ s.eraseNext ≤ l ∧ l ≤ s.params.visibleLast) := by
  rw [flushedLines, List.mem_append, mem_erasedLines, mem_composeTo_deferred h]
  cases pageflip <;> simp [or_comm]

theorem endFrame_vram (pageflip : Bool) (s : State) :
    (endFrame pageflip s).vram = (flushedLines pageflip s).foldl (eraseLine s.params) s.vram := by
  rw [flushedLines, List.foldl_append, ← composeTo_vram]
  rfl

section Erased
variable {p : Params} {lines : List Nat} {vram : Memory}

/-- On a board whose rows lie inside video memory an erased row reads as the reference row did. -/
theorem eraseLines_read_of_mem (hfit : rowsFit p) (hw : vram.wf = true)
    (hvis : ∀ l ∈ lines, visibleLine p l) {l c : Nat} (hl : l ∈ lines) (hc : c < 512) :
    (lines.foldl (eraseLine p) vram).read (cellIndex p (lineRowOf p l) c) =
      vram.read (cellIndex p p.autoeraseRow c) := by
  obtain ⟨hrows, href⟩ := hfit
  have hrow : ∀ l ∈ lines, (lineRowOf p l + 1) * 512 ≤ p.vramCells := fun l hl =>
    hrows l (hvis l hl).1 (hvis l hl).2
  rw [eraseLines_read lines hw hrow href, cellIndex_of_fits (hrow l hl) hc, cellIndex_of_fits href hc,
    if_pos ⟨l, hl, by omega⟩]
  congr 1
  omega

theorem eraseLines_read_of_not_inRow {k : Nat} (h : ∀ l ∈ lines, ¬ inRowOf p l k) :
    (lines.foldl (eraseLine p) vram).read k = vram.read k := by
  induction lines generalizing vram with
  | nil => rfl
  | cons l ls ih =>
    rw [List.foldl_cons, ih fun x hx => h x (List.mem_cons_of_mem l hx)]
    exact eraseLine_read_ne l vram fun c hc e => h l List.mem_cons_self ⟨c, hc, e⟩

end Erased

/-- Settles O38: it holds. The rows erased at once are those of `erasedLines`; the others go on record. -/
theorem lineAutoErase : Obligations.LineAutoErase := by
  intro s line pageflip e h hYZ hfit he
  have hclamp := clampLine_eq h.visible_ordered line he
  have hlast : e ≤ s.params.visibleLast := hclamp ▸ (clampLine_visible h.visible_ordered line).2
  have hvis : ∀ l ∈ erasedLines e pageflip s, visibleLine s.params l := fun l hl => by
    obtain ⟨-, -, hge, hle⟩ := mem_erasedLines.mp hl
    exact ⟨Nat.le_trans h.erase_next.1 hge, Nat.le_trans hle hlast⟩
  refine ⟨_, exec_vidLine_YZ line pageflip (isYZ_of_YZ hYZ), ?_⟩
  rw [hclamp, setOut_vram, composeTo_vram]
  refine ⟨rfl, fun hon => ⟨fun l c hge hle hc => ?_, fun k hk => ?_⟩, fun hoff => ?_,
    mem_composeTo_deferred h⟩
  · exact eraseLines_read_of_mem hfit h.vram_good.1 hvis (mem_erasedLines.mpr ⟨hon.1, hon.2, hge, hle⟩) hc
  · refine eraseLines_read_of_not_inRow fun l hl => ?_
    obtain ⟨-, -, hge, hle⟩ := mem_erasedLines.mp hl
    exact hk l hge hle
  · rw [erasedLines_eq_nil hoff, List.foldl_nil]

/-- Settles O39: it holds. The shadow buffer is as the partial update to the last visible line leaves it; the
rows erased are those of `flushedLines`, all of them visible. -/
theorem endOfFrameFlush : Obligations.EndOfFrameFlush := by
  intro s pageflip h hYZ hfit
  have hvis : ∀ l ∈ flushedLines pageflip s, visibleLine s.params l := fun l hl => by
    obtain ⟨hfirst, hlast⟩ := h.erase_next
    obtain hold | ⟨-, hge, hle⟩ := (mem_flushedLines h l).mp hl
    · obtain ⟨hge, hlt⟩ := h.deferred_passed l hold
      exact ⟨hge, by omega⟩
    · exact ⟨Nat.le_trans hfirst hge, hle⟩
  refine ⟨_, exec_vidEof_YZ pageflip (isYZ_of_YZ hYZ), ?_⟩
  rw [setOut_vram, setOut_shadow, endFrame_vram, endFrame_shadow]
  refine ⟨fun l k hl hle hk => partialUpdate_read_of_inRow h.shadow_good.1 hl hle hk,
    fun k hk => partialUpdate_read_of_not_inRow h.shadow_good.1 hk, fun l c hc hl => ?_, fun k hk => ?_, ?_⟩
  · exact eraseLines_read_of_mem hfit h.vram_good.1 hvis ((mem_flushedLines h l).mpr hl) hc
  · exact eraseLines_read_of_not_inRow fun l hl => hk l ((mem_flushedLines h l).mp hl)
  · rw [← endFrame_vram, ← endFrame_shadow]
    rfl

end Sys2Proof.Machine
end

section
/-! PROOFS. 43_video_memory.md rule R212: a covered row of the shadow buffer. No operation but the compositor's
calls and an attach reaches what the copying depends on, and those calls copy only lines not copied yet. -/

namespace Sys2Proof.Machine

/-! ### What the copying depends on -/

/-- The parameters, the shadow buffer and the next line to copy. -/
def copyView (s : State) : Params × Memory × Nat := (s.params, s.shadow, s.nextLine)

theorem copyView_scheduleCompletion (n : Nat) (s : State) : copyView (scheduleCompletion n s) = copyView s := by
  obtain ⟨_, h⟩ | ⟨_, h⟩ := scheduleCompletion_cases n s <;> rw [h] <;> rfl

theorem copyView_go (c : Word) (v : Variant) (s : State) : copyView (go c v s) = copyView s := by
  rw [go_eq, copyView_scheduleCompletion]
  rfl

theorem copyView_commandWritten (c : Word) (s : State) : copyView (commandWritten c s) = copyView s := by
  unfold commandWritten
  split
  · exact copyView_go c _ _
  · rfl

theorem copyView_runBlit (m : BitVec 5) (v : Variant) (f : BltFields) (s : State) :
    copyView (runBlit m v f s) = copyView s :=
  copyView_go (bltWord m f) v (latchCommand (bltWord m f) s)

/-- The compositor's calls and the attach apart, no operation reaches it. -/
theorem copyView_of_exec {i : Instr} {s t : State} (ha : ¬ isAttach i)
    (hline : ∀ line flip, i ≠ .vidLine line flip) (heof : ∀ flip, i ≠ .vidEof flip)
    (h : exec i s = .next t) : copyView t = copyView s := by
  cases i with
  | dmaWr off data mask =>
    by_cases hc : registerAt s.params.regMap off = commandReg
    · rw [exec_dmaWr_command hc] at h
      obtain rfl := Host.Outcome.next.inj h
      exact copyView_commandWritten _ s
    · rw [exec_dmaWr_plain hc] at h
      obtain rfl := Host.Outcome.next.inj h
      rfl
  | blt00 f | blt01 f | blt02 f | blt03 f | blt04 f | blt05 f | blt06 f | blt07 f
  | blt08 f | blt09 f | blt0A f | blt0B f | blt0C f | blt0D f | blt0E f | blt0F f
  | blt10 f | blt11 f | blt12 f | blt13 f | blt14 f | blt15 f | blt16 f | blt17 f
  | blt18 f | blt19 f | blt1A f | blt1B f | blt1C f | blt1D f | blt1E f | blt1F f =>
    obtain rfl := Host.Outcome.next.inj h
    exact copyView_runBlit _ _ f s
  | dmaDone =>
    obtain rfl := Host.Outcome.next.inj h
    cases hc : completionEnabled s <;> rfl
  | vidLine line flip => exact absurd rfl (hline line flip)
  | vidEof flip => exact absurd rfl (heof flip)
  | cmosEn data =>
    obtain rfl := Host.Outcome.next.inj h
    rw [enableWrite_eq]
    rfl
  | dmaStop _ | dmaRd _ | ctrlWr _ _ | vramWr _ _ _ | vramRd _ | palWr _ _ | srToHost _ | srFromHost _ _
  | cmosRd _ | cmosWr _ _ _ | cmosLoad _ | cmosSave =>
    obtain rfl := Host.Outcome.next.inj h
    rfl
  | reset p blob => exact absurd ⟨p, blob, rfl⟩ ha
  | prot1Rd | prot1Wr _ _ | prot2Rd | prot2RdSh | prot2RdC | prot2Wr _ _ | prot3Rd | prot3Wr _ _
  | prot4Wr _ | prot4Rd | prot5Wr _ | prot5Rd | prot5Status =>
    rw [exec_eq_of_isProtection rfl h]
    rfl

/-! ### A covered row -/

/-- On the board `p` line `l` has been copied, and cell `k` of the shadow buffer holds `w`. -/
structure CoveredCell (p : Params) (l k : Nat) (w : Word) (t : State) : Prop where
  params : t.params = p
  shadow_wf : t.shadow.wf = true
  copied : l < t.nextLine
  picture : t.shadow.read k = w

namespace CoveredCell

/-- The call that covers the row copies it as it then is (rules R211, R212). -/
theorem of_partialUpdate {s : State} (hw : s.shadow.wf = true) {l e k : Nat} (hl : s.nextLine ≤ l) (he : l ≤ e)
    (hk : inRowOf s.params l k) : CoveredCell s.params l k (s.vram.read k) (partialUpdate e s) where
  params := rfl
  shadow_wf := partialUpdate_shadow_wf hw
  copied := by
    rw [partialUpdate_nextLine, if_pos (Nat.le_trans hl he)]
    exact Nat.lt_succ_of_le he
  picture := partialUpdate_read_of_inRow hw hl he hk

variable {p : Params} {l k : Nat} {w : Word} {t : State} (h : CoveredCell p l k w t)
include h

theorem of_copyView {u : State} (e : copyView u = copyView t) : CoveredCell p l k w u := by
  rw [copyView, copyView, Prod.mk.injEq, Prod.mk.injEq] at e
  obtain ⟨hparams, hshadow, hnext⟩ := e
  exact ⟨hparams.trans h.params, hshadow ▸ h.shadow_wf, hnext ▸ h.copied, hshadow ▸ h.picture⟩

variable (hl : visibleLine p l) (honly : ∀ l', visibleLine p l' → l' ≠ l → ¬ inRowOf p l' k)
include hl honly

/-- Every line copied later is another visible line, whose row the cell is not in. -/
protected theorem partialUpdate {e : Nat} (he : e ≤ p.visibleLast) :
    CoveredCell p l k w (partialUpdate e t) where
  params := h.params
  shadow_wf := partialUpdate_shadow_wf h.shadow_wf
  copied := by
    have hcopied := h.copied
    rw [partialUpdate_nextLine]
    split <;> omega
  picture := by
    have hcopied := h.copied
    obtain ⟨hfirst, hlast⟩ := hl
    refine (partialUpdate_read_of_not_inRow h.shadow_wf fun l' hge hle => ?_).trans h.picture
    rw [h.params]
    exact honly l' ⟨by omega, by omega⟩ (by omega)

theorem of_exec_vidLine {line : Int} {flip : Bool} {u : State} (he : exec (.vidLine line flip) t = .next u) :
    CoveredCell p l k w u := by
  cases hyz : isYZ t.params with
  | true =>
    have hlast : clampLine t.params line ≤ p.visibleLast := by
      rw [h.params]
      exact (clampLine_visible (Nat.le_trans hl.1 hl.2) line).2
    rw [exec_vidLine_YZ line flip hyz] at he
    obtain rfl := Host.Outcome.next.inj he
    exact (h.partialUpdate hl honly hlast).of_copyView rfl
  | false =>
    rw [exec_vidLine_TWolf line flip hyz] at he
    obtain rfl := Host.Outcome.next.inj he
    exact h.of_copyView rfl

theorem of_exec {i : Instr} {u : State} (ha : ¬ isAttach i) (heof : ∀ flip, i ≠ .vidEof flip)
    (he : exec i t = .next u) : CoveredCell p l k w u := by
  by_cases hi : ∃ line flip, i = .vidLine line flip
  · obtain ⟨line, flip, rfl⟩ := hi
    exact h.of_exec_vidLine hl honly he
  · push Not at hi
    exact h.of_copyView (copyView_of_exec ha hi heof he)

/-- The end of the frame copies the rest of the rows; the line counter starts again after that (rule R218). -/
theorem read_of_exec_vidEof {flip : Bool} {u : State} (he : exec (.vidEof flip) t = .next u) :
    u.shadow.read k = w := by
  cases hyz : isYZ t.params with
  | true =>
    rw [exec_vidEof_YZ flip hyz] at he
    obtain rfl := Host.Outcome.next.inj he
    rw [setOut_shadow, endFrame_shadow, h.params]
    exact (h.partialUpdate hl honly (Nat.le_refl _)).picture
  | false =>
    rw [exec_vidEof_TWolf flip hyz] at he
    obtain rfl := Host.Outcome.next.inj he
    exact h.picture

end CoveredCell

theorem exists_of_runOps_cons {i : Instr} {is : List Instr} {s t : State}
    (h : runOps (i :: is) s = .next t) : ∃ u, exec i s = .next u ∧ runOps is u = .next t := by
  cases he : exec i s with
  | next u => exact ⟨u, rfl, by rw [← h, runOps_cons_of_next he]⟩
  | fault r => simp [runOps, he] at h
  | refused r => simp [runOps, he] at h

/-- A covered cell lasts through any operations that are no attach and end no frame, and through the end of the
frame after them (rule R212). -/
theorem CoveredCell.read_of_runOps {p : Params} {l k : Nat} {w : Word} (hl : visibleLine p l)
    (honly : ∀ l', visibleLine p l' → l' ≠ l → ¬ inRowOf p l' k) {between : List Instr}
    (hbetween : ∀ i ∈ between, ¬ isAttach i ∧ ∀ flip, i ≠ .vidEof flip) {lastflip : Bool} {s t : State}
    (h : CoveredCell p l k w s) (ht : runOps (between ++ [.vidEof lastflip]) s = .next t) :
    t.shadow.read k = w := by
  induction between generalizing s with
  | nil =>
    obtain ⟨u, he, hu⟩ := exists_of_runOps_cons ht
    obtain rfl := Host.Outcome.next.inj hu
    exact h.read_of_exec_vidEof hl honly he
  | cons i is ih =>
    obtain ⟨u, he, hu⟩ := exists_of_runOps_cons ht
    obtain ⟨ha, heof⟩ := hbetween i List.mem_cons_self
    exact ih (fun j hj => hbetween j (List.mem_cons_of_mem i hj)) (h.of_exec hl honly ha heof he) hu

/-- Settles O40: it holds. The first call covers the cell with the picture it found. -/
theorem coveredRowsKeepTheirPicture : Obligations.CoveredRowsKeepTheirPicture := by
  intro s t line pageflip lastflip between l k h hYZ hnext hl hline hk honly hbetween ht
  obtain ⟨u, he, hu⟩ := exists_of_runOps_cons ht
  rw [exec_vidLine_YZ line pageflip (isYZ_of_YZ hYZ)] at he
  obtain rfl := Host.Outcome.next.inj he
  have hcovered : CoveredCell s.params l k (s.vram.read k)
      (setOut (composeTo (clampLine s.params line) pageflip s) none) :=
    (CoveredCell.of_partialUpdate h.shadow_good.1 hnext (le_clampLine hl hline) hk).of_copyView rfl
  exact hcovered.read_of_runOps hl honly hbetween hu

end Sys2Proof.Machine
end

section
/-! PROOFS. 44_cmos.md: the CMOS controller. First each operation as an equation; then the permission, the pages,
and the blob as a list of words. -/

namespace Sys2Proof.Machine

/-! ### The operations (rules R230 to R236) -/

section Operations
variable {s : State}

theorem cmosAddress_YZ (h : isYZ s.params = true) (off : Nat) :
    cmosAddress s off = (off + s.cmosPage) % (4 * s.params.cmosPageWords) := by
  rw [cmosAddress, cmosWords, cmosPages, if_pos h]

theorem cmosAddress_TWolf (h : isYZ s.params = false) (off : Nat) :
    cmosAddress s off = (off + s.cmosPage) % s.params.cmosPageWords := by
  rw [cmosAddress, cmosWords, cmosPages, if_neg (ne_true_of_eq_false h), Nat.one_mul]

theorem cmosWriteAllowed_iff : cmosWriteAllowed s = true ↔ s.params.family = .T ∨ s.cmosWe = true := by
  unfold cmosWriteAllowed
  cases s.params.family <;> simp

theorem exec_cmosRd (off : Nat) (s : State) :
    exec (.cmosRd off) s = .next (answer s (s.cmos.read (cmosAddress s off))) := rfl

/-- The state an allowed write leaves (rules R231, R232). -/
def cmosWritten (off : Nat) (data : Word) (mask : ByteMask) (s : State) : State :=
  { s with
    cmos := s.cmos.write (cmosAddress s off) (merge16 (s.cmos.read (cmosAddress s off)) data mask)
    cmosWe := false
    out := none }

theorem exec_cmosWr_allowed (h : s.params.family = .T ∨ s.cmosWe = true) (off : Nat) (data : Word)
    (mask : ByteMask) : exec (.cmosWr off data mask) s = .next (cmosWritten off data mask s) := by
  simp only [exec, execCmosWr, cmosWriteAllowed_iff.mpr h, if_true]
  rfl

/-- There is no permission left to consume, so a dropped write changes the answer alone. -/
theorem exec_cmosWr_dropped (hT : s.params.family ≠ .T) (hwe : s.cmosWe = false) (off : Nat) (data : Word)
    (mask : ByteMask) : exec (.cmosWr off data mask) s = .next { s with out := none } := by
  have hdrop : ¬ cmosWriteAllowed s = true := by simp [cmosWriteAllowed_iff, hT, hwe]
  simp only [exec, execCmosWr, if_neg hdrop, setOut, hwe]

theorem exec_cmosEn (data : Word) (s : State) :
    exec (.cmosEn data) s = .next (setOut (enableWrite data s) none) := rfl

theorem exec_cmosLoad (blob : Blob) (s : State) :
    exec (.cmosLoad blob) s = .next { s with cmos := loadCmos s.params blob, out := none } := rfl

theorem exec_cmosSave (s : State) :
    exec .cmosSave s = .next { s with out := some (.blob (saveCmos s.params s.cmos)) } := rfl

end Operations

/-- Settles O42: it holds. The address is taken modulo the whole store, four pages on Y and Z and one elsewhere. -/
theorem cmosRead : Obligations.CmosRead := by
  refine fun s off => ⟨fun h => ?_, fun h => ?_⟩
  · rw [exec_cmosRd, cmosAddress_YZ (isYZ_of_YZ h)]
    rfl
  · rw [exec_cmosRd, cmosAddress_TWolf (isYZ_of_TWolf h)]
    rfl

/-- Settles O43: it holds. An allowed write stores the old word under the byte merge of rule R51. -/
theorem cmosWrite : Obligations.CmosWrite := by
  refine fun s off data mask hw => ⟨fun h => ?_, fun hT hwe => exec_cmosWr_dropped hT hwe off data mask⟩
  refine ⟨_, cmosAddress s off, exec_cmosWr_allowed h off data mask, fun hYZ => cmosAddress_YZ (isYZ_of_YZ hYZ) off,
    fun hTWolf => cmosAddress_TWolf (isYZ_of_TWolf hTWolf) off, ?_, fun k hk => Memory.read_write_ne _ _ hk⟩
  rw [Memory.read_write hw, if_pos rfl]
  exact mergesInto_merge16 _ data mask

/-! ### The permission (rules R232, R233) -/

section Enable
variable (data : Word) (s : State)

@[simp] theorem enableWrite_params : (enableWrite data s).params = s.params := by rw [enableWrite_eq]

@[simp] theorem enableWrite_cmos : (enableWrite data s).cmos = s.cmos := by rw [enableWrite_eq]

@[simp] theorem enableWrite_cmosPage : (enableWrite data s).cmosPage = s.cmosPage := by rw [enableWrite_eq]

@[simp] theorem enableWrite_cmosWe : (enableWrite data s).cmosWe = true := by rw [enableWrite_eq]

/-- Without chip 4 the enable write sets the permission alone. -/
theorem enableWrite_of_chip_ne_four {s : State} (h : chipIs s.context 4 = false) :
    enableWrite data s = { s with cmosWe := true } := by
  unfold enableWrite
  split
  · next hc =>
    rw [(chipIs_four_iff s).mpr ⟨_, _, _, _, _, hc⟩] at h
    cases h
  · rfl

end Enable

/-- Settles O45: it holds. `CMOS.EN` and `PROT4.WR` are the same `enableWrite`. -/
theorem cmosEnable : Obligations.CmosEnable := by
  refine fun s data => ⟨fun h => ?_, fun h => ⟨?_, _, exec_cmosEn data s, enableWrite_cmosWe data s, ?_⟩⟩
  · rw [exec_cmosEn, enableWrite_of_chip_ne_four data h]
    rfl
  · obtain ⟨_, _, _, _, _, hc⟩ := (chipIs_four_iff s).mp h
    rw [exec_cmosEn, exec_prot4Wr hc]
  · rw [enableWrite_eq]
    rfl

/-- The first of two writes consumes the permission, and the second is dropped. -/
theorem runOps_cmosWr_cmosWr {s : State} (hT : s.params.family ≠ .T) (hwe : s.cmosWe = true) (off₁ off₂ : Nat)
    (data₁ data₂ : Word) (m₁ m₂ : ByteMask) :
    runOps [.cmosWr off₁ data₁ m₁, .cmosWr off₂ data₂ m₂] s = .next (cmosWritten off₁ data₁ m₁ s) := by
  rw [runOps_cons_of_next (exec_cmosWr_allowed (.inr hwe) off₁ data₁ m₁),
    runOps_cons_of_next (exec_cmosWr_dropped (s := cmosWritten off₁ data₁ m₁ s) hT rfl off₂ data₂ m₂)]
  rfl

/-- What a write stores depends on the parameters, the store and the page alone. -/
theorem cmosWritten_cmos_congr {s t : State} (hparams : t.params = s.params) (hcmos : t.cmos = s.cmos)
    (hpage : t.cmosPage = s.cmosPage) (off : Nat) (data : Word) (mask : ByteMask) :
    (cmosWritten off data mask t).cmos = (cmosWritten off data mask s).cmos := by
  simp only [cmosWritten, cmosAddress, hparams, hcmos, hpage]

/-- Settles O44: it holds. The permission is a flag, so a second enable leaves the writes after it as they were. -/
theorem cmosPermissionIsOneShot : Obligations.CmosPermissionIsOneShot := by
  intro s d₁ d₂ data₁ data₂ off₁ off₂ m₁ m₂ hT
  let t := setOut (enableWrite d₁ s) none
  let v := setOut (enableWrite d₂ t) none
  have htT : t.params.family ≠ .T := by simpa [t] using hT
  have hvT : v.params.family ≠ .T := by simpa [v] using htT
  have htwe : t.cmosWe = true := enableWrite_cmosWe d₁ s
  have hvwe : v.cmosWe = true := enableWrite_cmosWe d₂ t
  refine ⟨t, _, exec_cmosEn d₁ s, htwe, exec_cmosWr_allowed (.inr htwe) off₁ data₁ m₁, ?_,
    cmosWritten off₁ data₁ m₁ v, ?_, ?_, rfl⟩
  · rw [runOps_cons_of_next (exec_cmosEn d₁ s), runOps_cmosWr_cmosWr htT htwe]
  · rw [runOps_cons_of_next (exec_cmosEn d₁ s), runOps_cons_of_next (exec_cmosEn d₂ t),
      runOps_cmosWr_cmosWr hvT hvwe]
  · exact cmosWritten_cmos_congr (enableWrite_params d₂ t) (enableWrite_cmos d₂ t) (enableWrite_cmosPage d₂ t)
      off₁ data₁ m₁

/-! ### The pages (rules R234, R237) -/

/-- A control word with the page number in bits 7:6 selects that page and leaves the store alone. -/
theorem exec_ctrlWr_selectsPage {s : State} (h : isYZ s.params = true) {page : Nat} (hp : page < 4) :
    ∃ t, exec (.ctrlWr (BitVec.ofNat 16 (64 * page)) ⟨true, true⟩) s = .next t ∧ t.params = s.params ∧
      t.cmos = s.cmos ∧ t.cmosPage = page * s.params.cmosPageWords := by
  refine ⟨_, exec_ctrlWr _ _ s, rfl, rfl, ?_⟩
  have hword : (BitVec.ofNat 16 (64 * page)).toNat / 64 % 4 = page := by
    rw [BitVec.toNat_ofNat]
    omega
  rw [merge16_full, writeControl_YZ h, setOut_cmosPage, hword]

/-- An offset inside the selected page does not wrap (rule R237). -/
theorem cmosAddress_onPage {s : State} (h : isYZ s.params = true) {page off : Nat} (hp : page < 4)
    (ho : off < s.params.cmosPageWords) (hpage : s.cmosPage = page * s.params.cmosPageWords) :
    cmosAddress s off = page * s.params.cmosPageWords + off := by
  have hlast : (page + 1) * s.params.cmosPageWords ≤ 4 * s.params.cmosPageWords := Nat.mul_le_mul_right _ hp
  rw [Nat.add_one_mul] at hlast
  rw [cmosAddress_YZ h, hpage, Nat.add_comm, Nat.mod_eq_of_lt (by omega)]

/-- The pages do not meet: a word of the store is one offset inside one page. -/
theorem pageWord_inj {n page₁ page₂ off₁ off₂ : Nat} (h₁ : off₁ < n) (h₂ : off₂ < n) :
    page₂ * n + off₂ = page₁ * n + off₁ ↔ page₁ = page₂ ∧ off₁ = off₂ := by
  refine ⟨fun e => ?_, fun ⟨hpage, hoff⟩ => by rw [hpage, hoff]⟩
  have hoff := congrArg (· % n) e
  simp only [Nat.mul_add_mod', Nat.mod_eq_of_lt h₁, Nat.mod_eq_of_lt h₂] at hoff
  subst hoff
  exact ⟨(Nat.eq_of_mul_eq_mul_right (by omega) (Nat.add_right_cancel e)).symm, rfl⟩

/-- Selecting a page, enabling and writing a whole word stores that word on that page. -/
theorem runOps_pageWrite {s : State} (h : isYZ s.params = true) {page off : Nat} (hp : page < 4)
    (ho : off < s.params.cmosPageWords) (enable data : Word) (rest : List Instr) :
    ∃ t, runOps (.ctrlWr (BitVec.ofNat 16 (64 * page)) ⟨true, true⟩ :: .cmosEn enable ::
        .cmosWr off data ⟨true, true⟩ :: rest) s = runOps rest t ∧
      t.params = s.params ∧ t.cmos = s.cmos.write (page * s.params.cmosPageWords + off) data := by
  obtain ⟨t, ht, hparams, hcmos, hpage⟩ := exec_ctrlWr_selectsPage h hp
  let u := setOut (enableWrite enable t) none
  have huparams : u.params = s.params := (enableWrite_params enable t).trans hparams
  have hucmos : u.cmos = s.cmos := (enableWrite_cmos enable t).trans hcmos
  have hupage : u.cmosPage = page * s.params.cmosPageWords := (enableWrite_cmosPage enable t).trans hpage
  refine ⟨cmosWritten off data ⟨true, true⟩ u, ?_, huparams, ?_⟩
  · rw [runOps_cons_of_next ht, runOps_cons_of_next (exec_cmosEn enable t),
      runOps_cons_of_next (exec_cmosWr_allowed (s := u) (.inr (enableWrite_cmosWe enable t)) off data _)]
  · rw [← huparams] at h ho hupage
    rw [cmosWritten, merge16_full, cmosAddress_onPage h hp ho hupage, huparams, hucmos]

/-- Selecting a page and reading answers the word at that offset of that page. -/
theorem runOps_pageRead {s : State} (h : isYZ s.params = true) {page off : Nat} (hp : page < 4)
    (ho : off < s.params.cmosPageWords) :
    ∃ t, runOps [.ctrlWr (BitVec.ofNat 16 (64 * page)) ⟨true, true⟩, .cmosRd off] s = .next t ∧
      t.out = some (.word (s.cmos.read (page * s.params.cmosPageWords + off))) := by
  obtain ⟨t, ht, hparams, hcmos, hpage⟩ := exec_ctrlWr_selectsPage h hp
  refine ⟨answer t (t.cmos.read (cmosAddress t off)), ?_, ?_⟩
  · rw [runOps_cons_of_next ht, runOps_cons_of_next (exec_cmosRd off t), runOps]
  · rw [← hparams] at h ho hpage
    rw [answer_out, cmosAddress_onPage h hp ho hpage, hparams, hcmos]

/-- Settles O46: it holds. Each access is at its page's base plus its offset, and the pages do not meet. -/
theorem cmosPagesAreSeparate : Obligations.CmosPagesAreSeparate := by
  intro s page₁ page₂ off₁ off₂ enable data hYZ hw hp₁ hp₂ ho₁ ho₂
  have hyz : isYZ s.params = true := isYZ_of_YZ hYZ
  obtain ⟨t, ht, htparams, htcmos⟩ := runOps_pageWrite hyz hp₁ ho₁ enable data
    [.ctrlWr (BitVec.ofNat 16 (64 * page₂)) ⟨true, true⟩, .cmosRd off₂]
  obtain ⟨u, hu, hout⟩ := runOps_pageRead (htparams ▸ hyz) hp₂ (htparams ▸ ho₂)
  refine ⟨u, ht.trans hu, ?_⟩
  rw [hout, htcmos, htparams, Memory.read_write hw]
  simp only [pageWord_inj ho₁ ho₂]

/-! ### The blob (rules R52, R235, R236) -/

theorem pairBytes_toNat (hi lo : Byte) : (pairBytes hi lo).toNat = lo.toNat + 256 * hi.toNat := by
  have hlo : lo.toNat < 2 ^ 8 := lo.isLt
  have hhi : hi.toNat < 2 ^ 8 := hi.isLt
  have hshift : (hi.setWidth 16 <<< 8).toNat = 2 ^ 8 * hi.toNat := by
    simp only [BitVec.toNat_shiftLeft, BitVec.toNat_setWidth, Nat.shiftLeft_eq]
    omega
  rw [pairBytes, BitVec.toNat_or, hshift, BitVec.toNat_setWidth_of_le (by decide),
    ← Nat.two_pow_add_eq_or_of_lt hlo, Nat.add_comm]

/-- Word `k` of a blob is its bytes `2k` and `2k + 1`, where missing bytes count as 0. -/
theorem blobWords_getD_toNat (bytes : List Byte) (k : Nat) :
    ((blobWords bytes).getD k 0#16).toNat =
      (bytes.getD (2 * k) 0#8).toNat + 256 * (bytes.getD (2 * k + 1) 0#8).toNat := by
  induction bytes using blobWords.induct generalizing k with
  | case1 => simp [blobWords]
  | case2 lo => cases k <;> simp [blobWords, pairBytes_toNat, Nat.mul_add_one]
  | case3 lo hi rest ih =>
    cases k with
    | zero => simp [blobWords, pairBytes_toNat]
    | succ k => simpa [blobWords, Nat.mul_add_one] using ih k

/-- The words of saved cells are the cells. -/
theorem blobWords_flatMap_bytes (cells : List Nat) (m : Memory) :
    blobWords (cells.flatMap fun k => [lowByte (m.read k), highByte (m.read k)]) = cells.map m.read := by
  induction cells with
  | nil => rfl
  | cons k cells ih =>
    rw [List.flatMap_cons, List.map_cons, ← ih, ← pairBytes_highByte_lowByte (m.read k)]
    simp [blobWords]

theorem blobWords_saveCmos (p : Params) (m : Memory) :
    blobWords (saveCmos p m) = (List.range (cmosWords p)).map m.read :=
  blobWords_flatMap_bytes _ m

theorem saveCmos_length (p : Params) (m : Memory) : (saveCmos p m).length = 2 * cmosWords p := by
  simp [saveCmos, Nat.mul_comm]

/-- Words written into an empty store from its first cell on are the store, and the cells past them are 0. -/
theorem Memory.read_writeWrapped_nil {n : Nat} {ws : List Word} (hn : ws.length ≤ n) (k : Nat) :
    (Memory.writeWrapped n [] 0 ws).read k = ws.getD k 0#16 := by
  by_cases hk : k < ws.length
  · have hread := Memory.read_writeWrapped (m := []) rfl 0 ws hn hk
    rwa [Nat.zero_add, Nat.mod_eq_of_lt (by omega), ← List.getD_eq_getElem _ 0#16] at hread
  · rw [Memory.read_writeWrapped_ne, List.getD_eq_default _ _ (by omega)]
    · rfl
    · intro i hi
      rw [Nat.zero_add, Nat.mod_eq_of_lt (by omega)]
      omega

theorem loadCmos_read (p : Params) (bytes : List Byte) (k : Nat) :
    (loadCmos p (some bytes)).read k =
      if k < cmosWords p then (blobWords bytes).getD k 0#16 else 0#16 := by
  rw [loadCmos, Memory.read_writeWrapped_nil (List.length_take_le _ _)]
  simp only [List.getD_eq_getElem?_getD, List.getElem?_take]
  split <;> rfl

/-- Settles O47: it holds. The words of the blob that the store has room for are the store. -/
theorem cmosLoad : Obligations.CmosLoad := by
  refine fun s bytes => ⟨⟨_, exec_cmosLoad (some bytes) s, fun k => ?_⟩, ⟨_, exec_cmosLoad none s, fun _ => rfl⟩⟩
  rw [loadCmos_read, apply_ite BitVec.toNat, blobWords_getD_toNat]
  rfl

/-- A cell outside the bound is not listed. -/
theorem Memory.read_of_below {m : Memory} {n k : Nat} (h : m.below n = true) (hk : n ≤ k) :
    m.read k = unlistedCell := by
  induction m with
  | nil => rfl
  | cons c m ih =>
    obtain ⟨a, w⟩ := c
    simp only [Memory.below, List.all_cons, Bool.and_eq_true, decide_eq_true_eq] at h
    obtain ⟨ha, hm⟩ := h
    rw [Memory.read, if_neg (by omega)]
    exact ih hm

/-- Both stores are canonical, so it is enough that they read the same (rules R235, R236). -/
theorem loadCmos_saveCmos {p : Params} {m : Memory} (h : m.good (cmosWords p)) :
    loadCmos p (some (saveCmos p m)) = m := by
  obtain ⟨hwf, hbelow⟩ := h
  refine Memory.ext_of_wfFrom (Memory.writeWrapped_wf _ _ _ rfl) hwf fun k => ?_
  rw [loadCmos_read, blobWords_saveCmos]
  split
  · next hk => simp [hk]
  · next hk => exact (Memory.read_of_below hbelow (by omega)).symm

/-- A detach hands out the store and destroys the context (rule R302). -/
theorem step_detach {s : State} (hl : s.live = true) {rest : List Call} (hp : s.pending = .event .detach :: rest) :
    step s = .next { s with live := false, timers := 0, pending := rest,
                            out := some (.blob (saveCmos s.params s.cmos)) } := by
  have hdecode : decode s.context (.event .detach) = .ok .cmosSave := decode_of_live hl _
  obtain ⟨-, hstep⟩ := stepRunsDecodedOperation s
  obtain ⟨-, -, hok⟩ := hstep _ rest hp
  obtain ⟨-, hdetach, -⟩ := hok _ hdecode
  exact hdetach _ (exec_cmosSave s) rfl

/-- Settles O48: it holds. The saved blob holds every word of the store, so loading it leaves nothing out. -/
theorem cmosSaveThenLoad : Obligations.CmosSaveThenLoad := by
  intro s u hgood hparams
  refine ⟨_, exec_cmosSave s, saveCmos_length _ _, ?_, fun rest hl hp => ⟨_, step_detach hl hp, rfl, ?_⟩⟩
  · rw [exec_cmosLoad, hparams, loadCmos_saveCmos hgood]
  · rintro rfl
    rfl

end Sys2Proof.Machine
end

section
/-! PROOFS. 45_protection.md: the protection chips. First an operation, or a few, repeated; then each chip's
operations as equations on the whole state, and the tables they step through. -/

namespace Sys2Proof.Machine

/-! ### Operations repeated (rule R63) -/

/-- What the first run of `is` establishes at 0, and each further run carries on by one, holds at `n` after
`n + 1` runs. -/
theorem runOps_replicate_succ {is : List Instr} {P : Nat → State → Prop} {s : State}
    (hfirst : ∃ t, runOps is s = .next t ∧ P 0 t)
    (hnext : ∀ k t, P k t → ∃ u, runOps is t = .next u ∧ P (k + 1) u) (n : Nat) :
    ∃ t, runOps (List.replicate (n + 1) is).flatten s = .next t ∧ P n t := by
  induction n with
  | zero => simpa using hfirst
  | succ n ih =>
    obtain ⟨t, ht, hP⟩ := ih
    obtain ⟨u, hu, hP'⟩ := hnext n t hP
    refine ⟨u, ?_, hP'⟩
    rw [List.replicate_succ', List.flatten_append, runOps_append_of_next ht, List.flatten_singleton, hu]

/-- One operation repeated, with the state after each repetition in closed form. -/
theorem runOps_replicate_exec {i : Instr} {f : Nat → State} {s : State} (hfirst : exec i s = .next (f 0))
    (hnext : ∀ k, exec i (f k) = .next (f (k + 1))) (n : Nat) :
    runOps (List.replicate (n + 1) i) s = .next (f n) := by
  have hstep {t u : State} (h : exec i t = .next u) : runOps [i] t = .next u := runOps_cons_of_next h []
  obtain ⟨t, ht, rfl⟩ := runOps_replicate_succ (is := [i]) (P := fun k t => t = f k) ⟨_, hstep hfirst, rfl⟩
    (fun k t (h : t = f k) => ⟨_, h ▸ hstep (hnext k), rfl⟩) n
  rwa [List.flatten_replicate_singleton] at ht

/-! ### Chip 1 (rules R240 to R242) -/

section Chip1
variable {s : State} {table : List (BitVec 6)} {shift : Nat}

/-- The entry under the cursor, or past the table's end the first. -/
theorem mk1Index_eq {j cursor : Nat} (hj : j < table.length)
    (h : cursor = j ∨ (j = 0 ∧ table.length ≤ cursor)) : mk1Index table cursor = j := by
  unfold mk1Index
  split <;> omega

theorem exec_prot1Rd_entry (hc : s.params.chip = some (.mk1 table shift)) {j : Nat} {v : BitVec 6}
    (hv : table[j]? = some v) (h : s.p1Cursor = j ∨ (j = 0 ∧ table.length ≤ s.p1Cursor)) :
    exec .prot1Rd s = .next { s with p1Cursor := j + 1, out := some (.word (v.setWidth 16 <<< 9)) } := by
  have hj : j < table.length := (List.getElem?_eq_some_iff.mp hv).1
  rw [exec_prot1Rd hc, mk1Index_eq hj h, List.getD_eq_getElem?_getD, hv]
  rfl

theorem exec_prot1Wr_hi (hc : s.params.chip = some (.mk1 table shift)) (data : Word) (lo : Bool) :
    exec (.prot1Wr data ⟨lo, true⟩) s =
      .next { s with p1Cursor := mk1Search table shift data, out := none } := by
  rw [exec_prot1Wr hc]
  rfl

end Chip1

/-- Settles O49: it holds. A write leaves the cursor on the least match, which the next read answers. -/
theorem chip1CyclesItsTable : Obligations.Chip1CyclesItsTable := by
  intro s table shift hc
  refine ⟨fun j v hv h => exec_prot1Rd_entry hc hv h, fun data lo => exec_prot1Wr hc data ⟨lo, false⟩, ?_, ?_⟩
  · intro data lo j hj hleast
    have hwrite : exec (.prot1Wr data ⟨lo, true⟩) s = .next { s with p1Cursor := j, out := none } := by
      rw [BitVec.setWidth_ushiftRight_eq_extractLsb] at hj hleast
      rw [exec_prot1Wr_hi hc, mk1Search_eq hj hleast]
    have hread := exec_prot1Rd_entry (s := { s with p1Cursor := j, out := none }) hc hj (.inl rfl)
    exact ⟨hwrite, by rw [runOps_cons_of_next hwrite, runOps_cons_of_next hread, runOps]⟩
  · intro data lo hnone
    rw [BitVec.setWidth_ushiftRight_eq_extractLsb] at hnone
    rw [exec_prot1Wr_hi hc, mk1Search_none hnone]

/-! ### Chip 2 (rules R245 to R248) -/

/-- Settles O50: it holds. Each read is an answer alone; the shifted one halves the latch. -/
theorem chip2Reads : Obligations.Chip2Reads := by
  refine ⟨fun s hc => ⟨exec_prot2Rd hc, ⟨_, exec_prot2RdSh hc, ?_⟩, exec_prot2RdC hc⟩, fun _ => rfl⟩
  rw [BitVec.toNat_ushiftRight, Nat.shiftRight_eq_div_pow, Nat.pow_one]

/-- Settles O51: it holds. The latch takes the byte merge of rule R51. -/
theorem chip2Write : Obligations.Chip2Write := fun s data mask hc =>
  ⟨_, mergesInto_merge16 s.p2Latch data mask, exec_prot2Wr hc data mask⟩

/-! ### Chip 3 (rules R250, R251) -/

section Chip3
variable {s : State} {table : Vector (BitVec 32) 128} {shift : Nat} {mask : Word}

/-- The queue's cursor moves on by one and stays at the last slot. -/
theorem queueStep_eq (cursor : Fin 5) : queueStep cursor = Fin.ofNat 5 (min (cursor.val + 1) 4) := by
  revert cursor
  decide

/-- The slot after `n` reads from the first. -/
theorem queueStep_ofNat (n : Nat) :
    queueStep (Fin.ofNat 5 (min n 4)) = Fin.ofNat 5 (min (n + 1) 4) := by
  have hslot : (Fin.ofNat 5 (min n 4)).val = min n 4 := Nat.mod_eq_of_lt (by omega)
  rw [queueStep_eq, hslot]
  congr 1
  omega

theorem exec_prot3Rd_slot (hc : s.params.chip = some (.nbaJam table shift mask)) {c d : Fin 5}
    (h : s.p3Cursor = c) (hd : queueStep c = d) :
    exec .prot3Rd s = .next { s with p3Cursor := d, out := some (.word s.p3Queue[c]) } := by
  subst h hd
  exact exec_prot3Rd hc

/-- The state after `n + 1` reads from the first slot (rule R250). -/
def queueRead (s : State) (n : Nat) : State :=
  { s with p3Cursor := Fin.ofNat 5 (min (n + 1) 4), out := some (.word s.p3Queue[Fin.ofNat 5 (min n 4)]) }

theorem exec_prot3Rd_first (hc : s.params.chip = some (.nbaJam table shift mask)) (h : s.p3Cursor = 0) :
    exec .prot3Rd s = .next (queueRead s 0) :=
  exec_prot3Rd_slot hc h (queueStep_ofNat 0)

theorem exec_prot3Rd_queueRead (hc : s.params.chip = some (.nbaJam table shift mask)) (n : Nat) :
    exec .prot3Rd (queueRead s n) = .next (queueRead s (n + 1)) :=
  exec_prot3Rd_slot (s := queueRead s n) hc rfl (queueStep_ofNat (n + 1))

/-- A table byte nine bits up, cut to a word. -/
theorem queueByte_extractLsb'_toNat (v : BitVec 32) (start : Nat) :
    (queueByte (v.extractLsb' start 8)).toNat = v.toNat / 2 ^ start % 256 * 512 % 65536 := by
  rw [queueByte, BitVec.toNat_shiftLeft, Nat.shiftLeft_eq, BitVec.toNat_setWidth, BitVec.extractLsb'_toNat,
    Nat.shiftRight_eq_div_pow]
  omega

end Chip3

/-- Settles O52: it holds. Each read answers the slot under the cursor, which sticks at the last. -/
theorem chip3ReadsStick : Obligations.Chip3ReadsStick := by
  refine ⟨fun s table shift mask hc => exec_prot3Rd_slot hc rfl (queueStep_eq _),
    fun s table shift mask n hc h0 => ?_, fun p j => ?_⟩
  · rw [← List.replicate_succ']
    exact runOps_replicate_exec (exec_prot3Rd_first hc h0) (exec_prot3Rd_queueRead hc) n
  · fin_cases j <;> rfl

/-- Settles O53: it holds. The four bytes of the entry stand in the queue from the highest on. -/
theorem chip3WriteFillsQueue : Obligations.Chip3WriteFillsQueue := by
  intro s table shift mask data off j hc hj
  obtain rfl : j = Fin.ofNat 128 (off >>> shift) := Fin.ext (by
    rw [hj, ← Nat.shiftRight_eq_div_pow]
    rfl)
  have hhigh : table[Fin.ofNat 128 (off >>> shift)].toNat / 2 ^ 24 < 256 := by omega
  refine ⟨_, exec_prot3Wr hc off data, rfl, (queueByte_extractLsb'_toNat _ 24).trans ?_,
    queueByte_extractLsb'_toNat _ 16, queueByte_extractLsb'_toNat _ 8, (queueByte_extractLsb'_toNat _ 0).trans ?_⟩
  · rw [Nat.mod_eq_of_lt hhigh]
  · rw [Nat.pow_zero, Nat.div_one]

/-! ### Chip 4 (rules R257 to R262) -/

section Chip4
variable {s : State} {resetSeq fifo : Vector Word 3} {dataSeq : List Word} {code data : Word}
  {ex : List (Word × Word)}

theorem fallingEdge_fifoShift (fifo : Vector Word 3) (d : Word) :
    fallingEdge (fifoShift fifo d) = (fifo[2].getLsbD 11 && !d.getLsbD 11) := rfl

/-- A title of the Strike Force kind neither resets nor clocks (rule R262). -/
theorem exec_prot4Wr_strikeForce (hc : s.params.chip = some (.yUnit resetSeq dataSeq true code ex))
    (hf : fifoShift s.p4Fifo (data &&& 0x0F00#16) = fifo) :
    exec (.prot4Wr data) s = .next { s with
      cmosWe := true, p4Fifo := fifo, out := none
      p4Result := if data &&& 0x0F00#16 = 0x0500#16 then withExceptions ex (code <<< 4) code
        else s.p4Result } := by
  rw [exec_prot4Wr hc]
  simp only [enableWrite, hc, chip4Write, hf, if_true]
  rfl

/-- Any other title takes the reset test and the clock on the history `fifo` the write makes. -/
theorem exec_prot4Wr_protocol (hc : s.params.chip = some (.yUnit resetSeq dataSeq false code ex))
    (hf : fifoShift s.p4Fifo (data &&& 0x0F00#16) = fifo) :
    exec (.prot4Wr data) s =
      .next (setOut (protocolWrite resetSeq dataSeq { s with cmosWe := true, p4Fifo := fifo }) none) := by
  rw [exec_prot4Wr hc]
  simp only [enableWrite, hc, chip4Write, hf, Bool.false_eq_true, if_false]

/-- With no falling edge, or no table, a write moves the history and may reset the cursor (rule R259). -/
theorem exec_prot4Wr_unclocked (hc : s.params.chip = some (.yUnit resetSeq dataSeq false code ex))
    (hf : fifoShift s.p4Fifo (data &&& 0x0F00#16) = fifo) (h : fallingEdge fifo = false ∨ dataSeq = []) :
    exec (.prot4Wr data) s = .next { s with
      cmosWe := true, p4Fifo := fifo, p4Cursor := resetCursor fifo resetSeq s.p4Cursor, out := none } := by
  have hstill : ¬ (fallingEdge fifo && !dataSeq.isEmpty) = true := by
    obtain h | h := h <;> simp [h]
  rw [exec_prot4Wr_protocol hc hf, protocolWrite, if_neg hstill]
  rfl

/-- A falling edge latches the entry under the cursor, once the reset test has set it (rules R259, R260). -/
theorem exec_prot4Wr_clocked (hc : s.params.chip = some (.yUnit resetSeq dataSeq false code ex))
    (hf : fifoShift s.p4Fifo (data &&& 0x0F00#16) = fifo) (h : fallingEdge fifo = true) {start : Nat} {v : Word}
    (hstart : resetCursor fifo resetSeq s.p4Cursor = start) (hv : dataSeq[start]? = some v) :
    exec (.prot4Wr data) s = .next { s with
      cmosWe := true, p4Fifo := fifo, p4Result := v, p4Cursor := min (start + 1) (dataSeq.length - 1)
      out := none } := by
  have hlt : start < dataSeq.length := (List.getElem?_eq_some_iff.mp hv).1
  have hclock : (fallingEdge fifo && !dataSeq.isEmpty) = true := by
    rw [h, Bool.true_and, Bool.not_eq_true', List.isEmpty_eq_false_iff]
    exact List.ne_nil_of_length_pos (by omega)
  have hentry : dataSeq.getD (min start (dataSeq.length - 1)) 0#16 = v := by
    rw [Nat.min_eq_left (by omega), List.getD_eq_getElem?_getD, hv, Option.getD_some]
  rw [exec_prot4Wr_protocol hc hf, protocolWrite, if_pos hclock, hstart, hentry]
  rfl

end Chip4

/-- Settles O54: it holds. The edge is between the word in slot 2 before the write and the word written. (The model's
`chip4Write` has the name this theorem would take.) -/
theorem chip4Write_spec : Obligations.Chip4Write := by
  intro s data d code resetSeq fifo dataSeq ex start hd hfifo hstart
  have hedge : fallingEdge fifo = (s.p4Fifo[2].getLsbD 11 && !d.getLsbD 11) := by
    rw [hfifo]
    rfl
  subst hd hstart
  refine ⟨fun hc => exec_prot4Wr_strikeForce hc hfifo.symm,
    fun hc => ⟨fun h => exec_prot4Wr_unclocked hc hfifo.symm ?_,
      fun v hbefore hnow hv => exec_prot4Wr_clocked hc hfifo.symm ?_ rfl hv⟩⟩
  · obtain h | h | h := h
    · exact .inl (by rw [hedge, h, Bool.false_and])
    · exact .inl (by rw [hedge, h, Bool.not_true, Bool.and_false])
    · exact .inr h
  · rw [hedge, hbefore, hnow, Bool.not_false, Bool.and_true]

section Clock
variable {s : State} {resetSeq : Vector Word 3} {dataSeq : List Word} {code hi lo : Word}
  {ex : List (Word × Word)}

/-- Neither history a clock passes through from this state is the pattern of the reset (rule R259). -/
def ClockAvoidsReset (resetSeq : Vector Word 3) (hi lo : Word) (s : State) : Prop :=
  fifoShift s.p4Fifo (hi &&& 0x0F00#16) ≠ resetSeq ∧
    fifoShift (fifoShift s.p4Fifo (hi &&& 0x0F00#16)) (lo &&& 0x0F00#16) ≠ resetSeq

/-- The history's mask keeps the clock bit (rules R257, R260). -/
theorem getLsbD_eleven_mask (w : Word) : (w &&& 0x0F00#16).getLsbD 11 = w.getLsbD 11 := by
  simp

/-- One clock latches the entry under the cursor and moves the cursor (rule R260). -/
theorem runOps_chip4_clock (hc : s.params.chip = some (.yUnit resetSeq dataSeq false code ex))
    (hhi : hi.getLsbD 11 = true) (hlo : lo.getLsbD 11 = false) (hr : ClockAvoidsReset resetSeq hi lo s)
    {v : Word} (hv : dataSeq[s.p4Cursor]? = some v) :
    runOps [.prot4Wr hi, .prot4Wr lo] s = .next { s with
      cmosWe := true, p4Fifo := fifoShift (fifoShift s.p4Fifo (hi &&& 0x0F00#16)) (lo &&& 0x0F00#16)
      p4Result := v, p4Cursor := min (s.p4Cursor + 1) (dataSeq.length - 1), out := none } := by
  obtain ⟨hrhi, hrlo⟩ := hr
  have hrise : fallingEdge (fifoShift s.p4Fifo (hi &&& 0x0F00#16)) = false := by
    rw [fallingEdge_fifoShift, getLsbD_eleven_mask, hhi, Bool.not_true, Bool.and_false]
  have hfall :
      fallingEdge (fifoShift (fifoShift s.p4Fifo (hi &&& 0x0F00#16)) (lo &&& 0x0F00#16)) = true := by
    rw [fallingEdge_fifoShift, getLsbD_eleven_mask, hlo, Bool.not_false, Bool.and_true]
    exact (getLsbD_eleven_mask hi).trans hhi
  have hhigh := exec_prot4Wr_unclocked hc rfl (.inl hrise)
  rw [resetCursor, if_neg hrhi] at hhigh
  have hlow := exec_prot4Wr_clocked (s := { s with
    cmosWe := true, p4Fifo := fifoShift s.p4Fifo (hi &&& 0x0F00#16), out := none }) hc rfl hfall (if_neg hrlo) hv
  rw [runOps_cons_of_next hhigh, runOps_cons_of_next hlow, runOps]

/-- What chip 4 is like after clock `k`: the latch holds entry `min k (len - 1)`, the cursor is one on, and the
history ends in the two words of a clock (rule R260). -/
structure AfterClock (p : Params) (dataSeq : List Word) (hi lo : Word) (k : Nat) (t : State) : Prop where
  params : t.params = p
  latch : dataSeq[min k (dataSeq.length - 1)]? = some t.p4Result
  cursor : t.p4Cursor = min (k + 1) (dataSeq.length - 1)
  slot1 : t.p4Fifo[1] = hi &&& 0x0F00#16
  slot2 : t.p4Fifo[2] = lo &&& 0x0F00#16

/-- A clock from a cursor at `min k (len - 1)` is clock `k`. -/
theorem AfterClock.of_runOps (hc : s.params.chip = some (.yUnit resetSeq dataSeq false code ex))
    (hhi : hi.getLsbD 11 = true) (hlo : lo.getLsbD 11 = false) (hd : dataSeq ≠ [])
    (hr : ClockAvoidsReset resetSeq hi lo s) {k : Nat} (hk : s.p4Cursor = min k (dataSeq.length - 1)) :
    ∃ t, runOps [.prot4Wr hi, .prot4Wr lo] s = .next t ∧ AfterClock s.params dataSeq hi lo k t := by
  have hlen : 0 < dataSeq.length := List.length_pos_of_ne_nil hd
  obtain ⟨v, hv⟩ : ∃ v, dataSeq[s.p4Cursor]? = some v := ⟨_, List.getElem?_eq_getElem (by omega)⟩
  refine ⟨_, runOps_chip4_clock hc hhi hlo hr hv, rfl, ?_, ?_, rfl, rfl⟩
  · rw [← hk, hv]
  · dsimp only
    omega

end Clock

/-- Settles O55: it holds. From the second clock on the history alternates between the two words, so the pattern of
the reset stays away and each clock carries the last one on. -/
theorem chip4ClocksThroughTable : Obligations.Chip4ClocksThroughTable := by
  intro s hi lo code v resetSeq dataSeq ex n hc hhi hlo hcursor hlhl hhlh hr1 hr2 hv
  have hd : dataSeq ≠ [] := by
    rintro rfl
    exact absurd hv (by simp)
  obtain ⟨t, ht, hafter⟩ := runOps_replicate_succ (P := AfterClock s.params dataSeq hi lo)
    (AfterClock.of_runOps hc hhi hlo hd ⟨hr1.symm, hr2.symm⟩ (by omega))
    (fun k t h => by
      have hr : ClockAvoidsReset resetSeq hi lo t := by
        simp only [ClockAvoidsReset, fifoShift, h.slot1, h.slot2]
        exact ⟨hhlh.symm, hlhl.symm⟩
      rw [← h.params] at hc ⊢
      exact AfterClock.of_runOps hc hhi hlo hd hr h.cursor) n
  exact ⟨t, ht, Option.some.inj (hafter.latch.symm.trans hv), hafter.cursor⟩

/-- Settles O56: it holds. A read changes the answer alone, so a read after it finds the same latch. -/
theorem chip4Read : Obligations.Chip4Read := by
  refine ⟨fun s resetSeq dataSeq sf code ex hc => ⟨exec_prot4Rd hc, fun n => ?_⟩, fun _ => rfl⟩
  rw [← List.replicate_succ']
  exact runOps_replicate_exec (f := fun _ => answer s s.p4Result) (exec_prot4Rd hc) (fun _ => exec_prot4Rd hc) n

/-! ### Chip 5 (rules R266 to R269) -/

section Chip5
variable {s : State} {buffer : Vector Byte 16} {orMask : Byte} {data : Word}

theorem serialEcho_eq_true_iff : serialEcho data = true ↔ data.toNat % 16 ≠ 0 := by
  rw [serialEcho, decide_eq_true_iff, ← BitVec.toNat_ne_iff_ne, toNat_extractLsb', Nat.pow_zero, Nat.div_one]
  rfl

theorem exec_prot5Wr_high (hc : s.params.chip = some (.serial buffer orMask)) (h : data.getLsbD 4 = true) :
    exec (.prot5Wr data) s = .next { s with serialStatus := true, out := none } := by
  rw [exec_prot5Wr hc, serialClock, if_pos h, h]
  rfl

theorem exec_prot5Wr_echo (hc : s.params.chip = some (.serial buffer orMask)) (h : data.getLsbD 4 = false)
    (he : data.toNat % 16 ≠ 0) : exec (.prot5Wr data) s =
      .next { s with serialStatus := false, p5Latch := orMask ||| data.setWidth 8, out := none } := by
  rw [exec_prot5Wr hc, serialClock, if_neg (ne_true_of_eq_false h), if_pos (serialEcho_eq_true_iff.mpr he), h]
  rfl

theorem exec_prot5Wr_clock (hc : s.params.chip = some (.serial buffer orMask)) (h : data.getLsbD 4 = false)
    (he : data.toNat % 16 = 0) {c d : Fin 16} (hcursor : s.p5Cursor = c) (hd : c + 1 = d) :
    exec (.prot5Wr data) s = .next { s with
      serialStatus := false, p5Latch := buffer[c], p5Cursor := d, out := none } := by
  subst hcursor hd
  have hno : ¬ serialEcho data = true := fun hecho => serialEcho_eq_true_iff.mp hecho he
  rw [exec_prot5Wr hc, serialClock, if_neg (ne_true_of_eq_false h), if_neg hno, h]
  rfl

/-- The circular cursor after one more clock (rule R269). -/
theorem add_ofNat_add_one (c : Fin 16) (n : Nat) : c + Fin.ofNat 16 n + 1 = c + Fin.ofNat 16 (n + 1) := by
  apply Fin.ext
  simp only [Fin.ofNat_eq_cast, Fin.val_add, Fin.val_natCast, Fin.val_one]
  omega

/-- The state after `n + 1` clocks (rule R269). -/
def serialClocked (buffer : Vector Byte 16) (s : State) (n : Nat) : State :=
  { s with
    serialStatus := false
    p5Latch := buffer[s.p5Cursor + Fin.ofNat 16 n]
    p5Cursor := s.p5Cursor + Fin.ofNat 16 (n + 1)
    out := none }

theorem exec_prot5Wr_first (hc : s.params.chip = some (.serial buffer orMask)) (h : data.getLsbD 4 = false)
    (he : data.toNat % 16 = 0) : exec (.prot5Wr data) s = .next (serialClocked buffer s 0) :=
  exec_prot5Wr_clock hc h he (Fin.add_zero s.p5Cursor).symm (add_ofNat_add_one s.p5Cursor 0)

theorem exec_prot5Wr_serialClocked (hc : s.params.chip = some (.serial buffer orMask))
    (h : data.getLsbD 4 = false) (he : data.toNat % 16 = 0) (n : Nat) :
    exec (.prot5Wr data) (serialClocked buffer s n) = .next (serialClocked buffer s (n + 1)) :=
  exec_prot5Wr_clock (s := serialClocked buffer s n) hc h he rfl (add_ofNat_add_one s.p5Cursor (n + 1))

/-- The status port shows the status in bit 0 (rule R268). -/
theorem setWidth_ofBool_sixteen (b : Bool) : (BitVec.ofBool b).setWidth 16 = if b then 1#16 else 0#16 := by
  cases b <;> rfl

end Chip5

/-- Settles O57: it holds. Each clock takes the byte under the circular cursor and moves it by one. -/
theorem chip5Write : Obligations.Chip5Write := by
  intro s data buffer orMask hc
  refine ⟨exec_prot5Wr_high hc, exec_prot5Wr_echo hc, fun h he =>
    ⟨exec_prot5Wr_clock hc h he rfl rfl, fun n => ?_⟩, ?_⟩
  · exact runOps_replicate_exec (exec_prot5Wr_first hc h he) (exec_prot5Wr_serialClocked hc h he) n
  · rw [exec_prot5Status hc, setWidth_ofBool_sixteen]
    rfl

/-- Settles O58: it holds. The latch is a byte, so the answered word has its value. -/
theorem chip5Read : Obligations.Chip5Read := by
  refine ⟨fun s buffer orMask hc => ⟨_, exec_prot5Rd hc, ?_⟩, fun _ => rfl⟩
  exact BitVec.toNat_setWidth_of_le (by omega)

end Sys2Proof.Machine
end

section
/-! PROOFS. 60_exceptions.md rules R284, R285: what moves the interrupt line, and the race of a completion and a
stop. -/

namespace Sys2Proof.Machine

/-! ### The race of a completion and a stop (rule R285) -/

/-- The stop after the completion overwrites the register whose busy bit the completion cleared, and drops the
line it raised (rules R126, R130). -/
theorem runOps_dmaDone_dmaStop (r : BitVec 15) {s : State} (hf : s.params.fastDma = false) (ht : 0 < s.timers) :
    runOps [.dmaDone, .dmaStop r] s = .next { s with
      dma := s.dma.set 14 (r.setWidth 16), irq := false, timers := s.timers - 1, out := none } := by
  rw [runOps_cons_of_next (exec_dmaDone_enabled hf ht), runOps_cons_of_next (exec_dmaStop r _), runOps]
  simp

/-- Settles O21: it holds. Either order leaves the stop word and one completion less in flight; the line is as
the later of the two leaves it. -/
theorem completionStopRace : Obligations.CompletionStopRace := by
  intro s r hf ht
  obtain ⟨-, -, hstopDone⟩ := stopDropsTheLine
  exact ⟨_, _, runOps_dmaDone_dmaStop r hf ht, hstopDone s r hf ht, rfl, rfl, rfl⟩

/-! ### What leaves the line alone (rule R284) -/

@[simp] theorem enableWrite_irq (data : Word) (s : State) : (enableWrite data s).irq = s.irq := by
  rw [enableWrite_eq]

@[simp] theorem composeTo_irq (e : Nat) (pageflip : Bool) (s : State) :
    (composeTo e pageflip s).irq = s.irq := rfl

@[simp] theorem endFrame_irq (pageflip : Bool) (s : State) : (endFrame pageflip s).irq = s.irq := rfl

/-- A new board context begins with the line low (rule R300). -/
theorem irq_of_exec_reset {p : Params} {blob : Blob} {s t : State} (h : exec (.reset p blob) s = .next t) :
    t.irq = false := by
  simp only [exec, execReset] at h
  split at h <;> cases h
  rfl

/-- The attach apart, an operation that neither writes `COMMAND` nor completes keeps the line. -/
theorem irq_of_exec {i : Instr} {s t : State} (hw : writesCommand s i = false) (hd : i ≠ .dmaDone)
    (ha : ¬ isAttach i) (h : exec i s = .next t) : t.irq = s.irq := by
  cases i with
  | dmaWr off data mask =>
    have hplain : registerAt s.params.regMap off ≠ commandReg := of_decide_eq_false hw
    rw [exec_dmaWr_plain hplain] at h
    obtain rfl := Host.Outcome.next.inj h
    rfl
  | dmaStop _
  | blt00 _ | blt01 _ | blt02 _ | blt03 _ | blt04 _ | blt05 _ | blt06 _ | blt07 _
  | blt08 _ | blt09 _ | blt0A _ | blt0B _ | blt0C _ | blt0D _ | blt0E _ | blt0F _
  | blt10 _ | blt11 _ | blt12 _ | blt13 _ | blt14 _ | blt15 _ | blt16 _ | blt17 _
  | blt18 _ | blt19 _ | blt1A _ | blt1B _ | blt1C _ | blt1D _ | blt1E _ | blt1F _ =>
    exact absurd hw.symm Bool.false_ne_true
  | dmaDone => exact absurd rfl hd
  | vidLine _ _ | vidEof _ =>
    obtain rfl := Host.Outcome.next.inj h
    simp [apply_ite State.irq]
  | cmosEn data =>
    obtain rfl := Host.Outcome.next.inj h
    exact enableWrite_irq data s
  | dmaRd _ | ctrlWr _ _ | vramWr _ _ _ | vramRd _ | palWr _ _ | srToHost _ | srFromHost _ _
  | cmosRd _ | cmosWr _ _ _ | cmosLoad _ | cmosSave =>
    obtain rfl := Host.Outcome.next.inj h
    rfl
  | reset p blob => exact absurd ⟨p, blob, rfl⟩ ha
  | prot1Rd | prot1Wr _ _ | prot2Rd | prot2RdSh | prot2RdC | prot2Wr _ _ | prot3Rd | prot3Wr _ _
  | prot4Wr _ | prot4Rd | prot5Wr _ | prot5Rd | prot5Status =>
    rw [exec_eq_of_isProtection rfl h]

/-- Settles O22: it holds. An attach begins with the line low, and every other operation admitted keeps it. -/
theorem noOtherInterruptSource : Obligations.NoOtherInterruptSource := by
  intro i s t hw hd h
  by_cases ha : isAttach i
  · obtain ⟨p, blob, rfl⟩ := ha
    exact .inr ⟨⟨p, blob, rfl⟩, irq_of_exec_reset h⟩
  · exact .inl (irq_of_exec hw hd ha h)

end Sys2Proof.Machine
end

section
/-! PROOFS. 45_protection.md, head, and 93_implementation_defined.md U19: what the board does not offer, and the
independence of the chips from the rest of the board. -/

namespace Sys2Proof.Machine

/-! ### Refusals by name (U19; log 7, log 10) -/

/-- Where its chip is not fitted, a protection operation is refused: the one arm that answers has that chip in it
(log 10). -/
theorem exec_refused_of_isProtection {i : Instr} {s : State} (hp : isProtection i = true)
    (h : offered s i = false) : exec i s = .refused .chipNotFitted := by
  cases i with
  | prot1Rd | prot1Wr _ _ | prot2Rd | prot2RdSh | prot2RdC | prot2Wr _ _ | prot3Rd | prot3Wr _ _
  | prot4Wr _ | prot4Rd | prot5Wr _ | prot5Rd | prot5Status =>
    simp only [exec, execProt1Rd, execProt1Wr, execProt2Rd, execProt2RdSh, execProt2RdC, execProt2Wr,
      execProt3Rd, execProt3Wr, execProt4Wr, execProt4Rd, execProt5Wr, execProt5Rd, execProt5Status]
    split
    · next hc => simp [offered, chipIs, State.context, hc] at h
    · rfl
  | _ => exact absurd hp Bool.false_ne_true

/-- Of the other operations, a board may not offer the attach alone. -/
theorem eq_reset_of_not_offered {i : Instr} {s : State} (hp : isProtection i = false)
    (h : offered s i = false) : ∃ p blob, i = .reset p blob ∧ p.wf = false := by
  cases i with
  | reset p blob => exact ⟨p, blob, rfl, h⟩
  | prot1Rd | prot1Wr _ _ | prot2Rd | prot2RdSh | prot2RdC | prot2Wr _ _ | prot3Rd | prot3Wr _ _
  | prot4Wr _ | prot4Rd | prot5Wr _ | prot5Rd | prot5Status => exact absurd hp.symm Bool.false_ne_true
  | _ => exact absurd h.symm Bool.false_ne_true

theorem exec_reset_refused {p : Params} (hp : p.wf = false) (blob : Blob) (s : State) :
    exec (.reset p blob) s = .refused .badParameters :=
  if_neg (ne_true_of_eq_false hp)

/-- Settles O9: it holds. What is not offered is an operation of a chip that is not fitted, or an attach. -/
theorem refusalsByName : Obligations.RefusalsByName := by
  intro i s h
  cases hp : isProtection i with
  | true => exact exec_refused_of_isProtection hp h
  | false =>
    obtain ⟨p, blob, rfl, hwf⟩ := eq_reset_of_not_offered hp h
    exact exec_reset_refused hwf blob s

/-! ### Independence of the chips (45_protection.md, head; decision D43) -/

/-- The board `t` with the parameters and the chips' registers of `s`. -/
def State.withChipOf (s t : State) : State :=
  { t with
    params := s.params
    p1Cursor := s.p1Cursor
    p2Latch := s.p2Latch
    p3Queue := s.p3Queue
    p3Cursor := s.p3Cursor
    p4Fifo := s.p4Fifo
    p4Cursor := s.p4Cursor
    p4Result := s.p4Result
    p5Cursor := s.p5Cursor
    p5Latch := s.p5Latch
    serialStatus := s.serialStatus }

theorem State.withChipOf_eq {s t : State} (h : sameChip s t) : s.withChipOf t = t := by
  obtain ⟨hparams, hcursor1, hlatch2, hqueue3, hcursor3, hfifo4, hcursor4, hresult4, hcursor5, hlatch5, hstatus5⟩ := h
  simp only [State.withChipOf, hparams, hcursor1, hlatch2, hqueue3, hcursor3, hfifo4, hcursor4, hresult4, hcursor5,
    hlatch5, hstatus5]

/-- The CMOS permission after a protection operation: set by chip 4's write, which is the enable write
(rule R233, decision D43), and kept by every other. -/
def permissionAfter (i : Instr) (s : State) : Bool :=
  match i with
  | .prot4Wr _ => true
  | _ => s.cmosWe

/-- Chip 4's reset test and clock work on the chip alone (rules R257, R259, R260). -/
theorem protocolWrite_withChipOf (resetSeq : Vector Word 3) (dataSeq : List Word) (s t : State) :
    protocolWrite resetSeq dataSeq (s.withChipOf t) = (protocolWrite resetSeq dataSeq s).withChipOf t := by
  rw [protocolWrite, protocolWrite, apply_ite (State.withChipOf · t)]
  rfl

/-- Outside the chip the enable write only sets the permission (rule R233). -/
theorem enableWrite_withChipOf (data : Word) (s t : State) :
    enableWrite data (s.withChipOf t) = (enableWrite data s).withChipOf { t with cmosWe := true } := by
  have hchip : (s.withChipOf t).params.chip = s.params.chip := rfl
  rcases hc : s.params.chip with _ | (_ | _ | _ | ⟨resetSeq, dataSeq, strikeForce, code, ex⟩ | _)
  case some.yUnit =>
    simp only [enableWrite, hchip, hc]
    cases strikeForce with
    | true => rfl
    | false => exact protocolWrite_withChipOf resetSeq dataSeq { s with
        cmosWe := true, p4Fifo := fifoShift s.p4Fifo (data &&& 0x0F00#16) } { t with cmosWe := true }
  all_goals
    simp only [enableWrite, hchip, hc]
    rfl

/-- A protection operation does on any other board with the same chip what it does on this one: its answer and
the chips' registers after it come from the chip, the rest of the board stays. -/
theorem exec_withChipOf {i : Instr} {s s' : State} (hp : isProtection i = true) (h : exec i s = .next s')
    (t : State) : exec i (s.withChipOf t) =
      .next { s'.withChipOf t with out := s'.out, cmosWe := permissionAfter i t } := by
  cases i with
  | prot1Rd | prot1Wr _ _ | prot2Rd | prot2RdSh | prot2RdC | prot2Wr _ _ | prot3Rd | prot3Wr _ _
  | prot4Rd | prot5Rd | prot5Status =>
    simp only [exec, execProt1Rd, execProt1Wr, execProt2Rd, execProt2RdSh, execProt2RdC, execProt2Wr,
      execProt3Rd, execProt3Wr, execProt4Rd, execProt5Rd, execProt5Status] at h ⊢
    split at h
    · next hc =>
      obtain rfl := Host.Outcome.next.inj h
      simp only [State.withChipOf, hc]
      rfl
    · cases h
  | prot4Wr data =>
    simp only [exec, execProt4Wr] at h
    split at h
    · next hc =>
      obtain rfl := Host.Outcome.next.inj h
      rw [exec_prot4Wr (s := s.withChipOf t) hc, enableWrite_withChipOf]
      rfl
    · cases h
  | prot5Wr data =>
    simp only [exec, execProt5Wr] at h
    split at h
    · next hc =>
      obtain rfl := Host.Outcome.next.inj h
      rw [exec_prot5Wr (s := s.withChipOf t) hc]
      split_ifs <;> rfl
    · cases h
  | _ => exact absurd hp Bool.false_ne_true

/-- Settles O59: it holds. The other board is itself with the first one's chip, so it runs as the first does; the
frame is that of every protection operation. -/
theorem protectionIsIndependent : Obligations.ProtectionIsIndependent := by
  intro i s t s' hp hsame h
  have ht := exec_withChipOf hp h t
  rw [State.withChipOf_eq hsame] at ht
  exact ⟨_, ht, ⟨rfl, rfl, rfl, rfl, rfl, rfl, rfl, rfl, rfl, rfl, rfl⟩, rfl, rfl, exec_eq_of_isProtection hp ht⟩

end Sys2Proof.Machine
end

section
/-! PROOFS. 70_reset_and_hazards.md rules R300, R301: the attach, and the reset state as one. -/

namespace Sys2Proof.Machine

/-- The state right after an attach: the calls waiting are all it keeps of the state before (rule R300; log 1). -/
theorem exec_reset {p : Params} (hp : p.wf = true) (blob : Blob) (s : State) :
    exec (.reset p blob) s = .next { attached p with cmos := loadCmos p blob, pending := s.pending } :=
  if_pos hp

/-- Every register is 0 after an attach (rule R40). -/
theorem attached_dma (p : Params) (r : Fin 16) : (attached p).dma[r] = 0#16 := by
  fin_cases r <;> rfl

/-- `bank_select` starts as the control value 0 decodes: set on Y and Z alone (rule R41). -/
theorem attached_bankSelect_eq_isYZ (p : Params) : (attached p).bankSelect = isYZ p := by
  rw [attached_bankSelect]
  simp [bankOf, attached]

/-- Settles O60: it holds. The state after an attach is built from its operands and the calls waiting, so each
element is read off it; loading the blob once more makes the same store. -/
theorem attachResets : Obligations.AttachResets := by
  intro s p blob hp
  have hqueue : ∀ j : Fin 5, (attached p).p3Queue[j] = 0#16 := fun j => by fin_cases j <;> rfl
  have hfifo : ∀ j : Fin 3, (attached p).p4Fifo[j] = 0#16 := fun j => by fin_cases j <;> rfl
  exact ⟨_, exec_reset hp blob s, State.Inv.attached hp blob s.pending, rfl, rfl, rfl, rfl, attached_dma p, rfl, rfl,
    rfl, attached_bankSelect_eq_isYZ p, rfl, rfl, rfl, fun _ => ⟨rfl, rfl, rfl⟩, rfl, rfl, rfl, rfl, rfl, rfl, rfl,
    rfl, hqueue, hfifo, rfl, rfl, rfl, _, exec_cmosLoad blob _, rfl⟩

/-- Settles O11: it holds. The reset state is the attach of the default board with no save file, whose parameters
the spec allows (log 5). -/
theorem invariantAtReset : Obligations.InvariantAtReset :=
  State.Inv.attached (p := defaultParams .T []) (by decide) none []

end Sys2Proof.Machine
end
